-- ==== Sys2Proof/Word.lean ====
section
/-! DEFINITION. The words of the SB204: bytes, window addresses, ticks, and the elapsed-time arithmetic of ticks (R8, R156). -/

namespace Sys2Proof

/-- One byte of the window, of a control record or of a reply. -/
abbrev Byte := BitVec 8

/-- A 2-byte number of a record (R186). -/
abbrev Half := BitVec 16

/-- A window address: 24 address bits (00_scope, Table 3). -/
abbrev Addr := BitVec 24

/-- A value of the 32-bit tick counter (R155). -/
abbrev Tick := BitVec 32

/-- The elapsed time of tick `t` at tick `now`: `now` minus `t` modulo 2^32 (R8). -/
def elapsed (now t : Tick) : Nat := (now - t).toNat

/-- The tick `d` ticks after `now`, modulo 2^32 (R156). -/
def tickAfter (now : Tick) (d : Nat) : Tick := now + BitVec.ofNat 32 d

/-- The name of one of the two capture queues (R124). -/
inductive QueueName where
  | a | b
deriving DecidableEq, Repr

end Sys2Proof
end

