-- ==== Sys2Proof/Syntax.lean ====
section
/-! DEFINITION. The commands the SB204 takes: one constructor of `Instr` for each row of spec/opcode_table.json. -/

namespace Sys2Proof

/-- The eleven timing settings of Table 8-1, in the widths the SET-TIMING record carries (Table 11-4). -/
structure TimingSettings where
  prescaler : Half
  idleClose : Half
  ageClose : Half
  holdLimit : Half
  staleA : Half
  staleB : Half
  drainLimit : Half
  replyLifetime : Half
  programLimit : Half
  eraseLimit : Half
  suspendLimit : Byte
deriving DecidableEq, Repr

/-- The rule record as SET-RULE carries it (Table 11-7): any byte values. -/
structure RuleArgs where
  index : Byte
  flags : Byte
  kind : Byte
  applies : Byte
  action : Byte
  slot : Byte
  capture : Byte
  addr1 : Addr
  addr2 : Addr
deriving DecidableEq, Repr

/-- The six fields SET-FLASH-POLICY carries (Table 11-4): any byte values. -/
structure PolicyArgs where
  suspendEnable : Byte
  eraseBudget : Byte
  programBudget : Byte
  resumeSpacing : Byte
  verifyEnable : Byte
  commitShare : Byte
deriving DecidableEq, Repr

/-- The commands. Operands: `line` is the line address of a request or control record; `guard` is the
level of the GUARD line in the event (log entry 7); `status` is the status byte the flash shows in the
event and `bytes` the bytes it returns (log entry 6). -/
inductive Instr where
  | readRequest (line : Addr) (offset length : Nat)
  | writeRequest (line : Addr) (offset : Nat) (bytes : List (Option Byte)) (guard : Bool)
  | readAnswer
  | hazardRelease
  | writeRelease
  | grant
  | readComplete (bytes : List Byte)
  | operationComplete (status : Byte)
  | suspensionComplete (status : Byte)
  | resumeBusy (status : Byte)
  | deferredSuspension
  | suspendLimitExpiry (status : Byte)
  | timeLimitExpiry
  | tick (status : Byte)
  | idleTimerExpiry (entry : Nat)
  | ageTimerExpiry (entry : Nat)
  | holdTimerExpiry
  | staleTimerExpiry (queue : QueueName)
  | drainTimerExpiry
  | replyLifetimeExpiry
  | wakeEnd (status : Byte)
  | startupWaitLimit
  | powerOn (status : Byte)
  | resetPinAssertion
  | resetPinRelease (status : Byte)
  | powerLoss
  | pwrwarnAssertion
  | pwrwarnDeassertion
  | drainCompletion
  | safeConditionMet
  | identify (line : Addr)
  | readStatus (line : Addr) (clear : Byte) (guard : Bool)
  | softReset (line : Addr) (discard : Byte)
  | softResetTakesEffect
  | setTiming (line : Addr) (settings : TimingSettings)
  | clearEvents (line : Addr) (set : BitVec 32)
  | setEventEnables (line : Addr) (set : BitVec 32)
  | setRule (line : Addr) (rule : RuleArgs) (guard : Bool)
  | readRule (line : Addr) (index : Byte) (guard : Bool)
  | setDefault (line : Addr) (action capture : Byte) (guard : Bool)
  | setFence (line : Addr) (size side invert : Byte) (guard : Bool)
  | setLock (line : Addr) (lock : Byte) (guard : Bool)
  | setQueue (line : Addr) (queue mode watermark : Byte)
  | fetchCapture (line : Addr) (queue maximum : Byte)
  | ackCapture (line : Addr) (queue : Byte) (number : BitVec 32)
  | fetchSlot (line : Addr) (slot : Byte)
  | releaseSlot (line : Addr) (slot : Byte)
  | flush (line : Addr) (scope : Byte) (sector : Half)
  | listFaults (line : Addr)
  | faultRetry (line : Addr) (sector : Half)
  | faultDiscard (line : Addr) (sector : Half)
  | setFlashPolicy (line : Addr) (policy : PolicyArgs)
  | sleep (line : Addr)
  | wake (line : Addr)
  | setPowerPolicy (line : Addr) (sleepRead drainAbort deepSleep : Byte)
  | programFuse (line : Addr) (group offset count : Byte) (data : List Byte)
  | fuseProgrammingCompletion (failed : List Byte)
  | lockFuse (line : Addr) (group : Byte)
  | unknownCommand (line : Addr) (code : Byte)
deriving DecidableEq, Repr

end Sys2Proof
end

