-- ==== Sys2Proof/Config.lean ====
section
/-! DEFINITION. What one SB204 fixes: the capacities of 00_scope Table 3, the identity of Table 11-10, and the values the spec leaves free (log entry 9). -/

namespace Sys2Proof.Config

/-- Staging entries (Table 3). -/
def entryCount : Nat := 16
/-- Region rules (Table 3). -/
def ruleCount : Nat := 24
/-- Capacity of a capture queue: A 32, B 16 (R124). -/
def queueCapacity : QueueName → Nat
  | .a => 32
  | .b => 16
/-- Latch slots (R136). -/
def slotCount : Nat := 8
/-- Reads the read lane holds (R85). -/
def readLaneSize : Nat := 4
/-- Bytes of a line (Table 3). -/
def lineBytes : Nat := 64
/-- Bytes of a page (Table 3). -/
def pageBytes : Nat := 256
/-- Bytes of a sector (Table 3). -/
def sectorBytes : Nat := 4096
/-- Pages of a sector (Table 3). -/
def sectorPages : Nat := 16
/-- Longest reply overlay in bytes (R170). -/
def overlayBytes : Nat := 512
/-- The start-up wait's limit in ticks (R183). -/
def startupLimit : Nat := 4000
/-- Vendor code (Table 11-10). -/
def vendorCode : Half := 0x1C5A
/-- Part code (Table 11-10). -/
def partCode : Half := 0x0204
/-- Silicon revision (Table 11-10). -/
def revision : Byte := 0x01

/-- Free value: a byte of a reply payload that Table 11-13 lays out and the spec gives no value for
(log entry 9). Its arguments are the draw number and the payload offset. -/
opaque freeByte : Nat → Nat → Byte

/-- Free value: which of the fuse bits asked for read one after fuse programming was cut short
(R180, log entry 9). Its arguments are the draw number and the byte's place. -/
opaque fuseTaken : Nat → Nat → Byte

/-- Free value: the status byte the flash shows to a status read that no command answers, in the
microsecond step (log entries 4 and 9). Its argument is the draw number. -/
opaque linkStatus : Nat → Byte

end Sys2Proof.Config
end

