-- ==== Sys2Proof/Machine/State.lean ====
section
/-! DEFINITION. The state of the SB204 as plain data, block by block (00_scope Table 1), and the state right after reset. -/

namespace Sys2Proof.Machine

/-! ### Staging controller (chapters 1 and 2) -/

/-- A sector image: the bytes that are not FFH, by offset, strictly rising. An unlisted offset reads FFH,
the byte an image holds at allocation (Table 1-5). -/
abbrev Image := List Host.Cell

/-- Close causes (Table 1-1). -/
inductive CloseCause where
  | idle | age | pressure | flush | drain | emergency | retry
deriving DecidableEq, Repr

/-- Commit plans (R41). -/
inductive CommitPlan where
  | eraseThenProgram | programOnly
deriving DecidableEq, Repr

/-- Commit steps (Table 2-2). -/
inductive CommitStep where
  | erase
  | program (page : Nat)
  | verify (page : Nat)
deriving DecidableEq, Repr

/-- Commit progress (R41): plan, pages still to program, current step, attempts used. -/
structure Progress where
  plan : CommitPlan
  pages : List Nat
  step : CommitStep
  attempts : Nat
deriving DecidableEq, Repr

/-- Fault kinds (R52). -/
inductive FaultKind where
  | eraseFailed | programFailed | verifyMismatch | flashTimeout
deriving DecidableEq, Repr

/-- The fault record of a FAULTED entry (R52). -/
structure FaultRecord where
  kind : FaultKind
  page : Option Nat
  tick : Tick
deriving DecidableEq, Repr

/-- The fields every entry but a FREE one carries (Table 1-2). -/
structure Sector where
  number : Nat
  base : Image
  work : Image
  firstWrite : Tick
  lastWrite : Tick
  lastUse : Tick
deriving DecidableEq, Repr

/-- The idle and age timers of an entry: stopped, or running with an expiry tick (R31, R33). They run
only while the entry is FILLING or OPEN. -/
structure Timers where
  idle : Option Tick
  age : Option Tick
deriving DecidableEq, Repr

/-- What a FILLING entry carries besides (Table 1-2), with its pending expiries (R35). -/
structure Filling where
  written : List Nat
  closeOnFill : Option CloseCause
  timers : Timers
  idlePending : Bool
  agePending : Bool
deriving DecidableEq, Repr

/-- A staging entry: its state, with the fields Table 1-2 gives that state. -/
inductive Entry where
  | free
  | filling (d : Sector) (f : Filling)
  | opened (d : Sector) (t : Timers)
  | closed (d : Sector) (cause : CloseCause)
  | committing (d : Sector) (cause : CloseCause) (progress : Progress)
  | clean (d : Sector)
  | faulted (d : Sector) (fault : FaultRecord)
deriving DecidableEq, Repr

/-- The staging controller: the table, the close queue (R37) and the retry counter (R49). -/
structure Staging where
  entries : List Entry
  closeQueue : List Nat
  retry : Nat
deriving DecidableEq, Repr

/-! ### Flash sequencer (chapter 3) -/

/-- The nine flash functions (Table 3-1), in the order of the PROFILE opcodes (Table 11-12). -/
inductive FlashFn where
  | read | program | erase | arm | status | suspend | resume | sleep | wake
deriving DecidableEq, Repr

/-- One function issued on the flash link (R58): opcode, address bytes, count of dummy bytes, data bytes
sent, count of bytes read back. -/
structure Spi where
  fn : FlashFn
  opcode : Byte
  addr : List Byte
  dummies : Nat
  data : List Byte
  reads : Nat
deriving DecidableEq, Repr

/-- The step an ERASE or PROGRAM operation serves (Table 3-3). -/
inductive OpStep where
  | erase
  | program (page : Nat)
deriving DecidableEq, Repr

/-- The current operation of an ERASE or PROGRAM (Table 3-3). -/
structure FlashOp where
  step : OpStep
  timeLimit : Nat
  busyTicks : Nat
  suspCount : Nat
  lastResume : Option Tick
deriving DecidableEq, Repr

/-- The claim a READ granted from IDLE serves (Table 3-3). -/
inductive ReadClaim where
  | miss (tag : Nat)
  | fillPage (sector page : Nat)
  | verify (page : Nat)
deriving DecidableEq, Repr

/-- Sequencer states (Table 3-2), each with the current operation it carries (Table 3-3). In SUSPENDED the
list is the service list; the READ of its head is in flight (R71). STARTUP_WAIT carries the start-up wait. -/
inductive SeqState where
  | idle
  | reading (claim : ReadClaim)
  | busy (op : FlashOp)
  | suspending (op : FlashOp) (expiry : Tick)
  | suspended (op : FlashOp) (service : List Nat)
  | resuming (op : FlashOp)
  | stalled
  | asleep
  | waking (ends : Tick)
  | startupWait (limit : Tick) (resumed : Bool)
deriving DecidableEq, Repr

/-- A fill request: the sector and the next page to read (R61). -/
structure FillReq where
  sector : Nat
  page : Nat
deriving DecidableEq, Repr

/-- Power function requests (R61). -/
inductive PowerReq where
  | sleep | wake
deriving DecidableEq, Repr

/-- The flash policy (R79). -/
structure FlashPolicy where
  suspendEnable : Bool
  eraseBudget : Nat
  programBudget : Nat
  resumeSpacing : Nat
  verifyEnable : Bool
  commitShare : Nat
deriving DecidableEq, Repr

/-- The flash sequencer (R61). Read misses are named by the tag of their read. -/
structure Sequencer where
  st : SeqState
  misses : List Nat
  fills : List FillReq
  powerReq : Option PowerReq
  share : Nat
  deferred : Option Tick
  policy : FlashPolicy
deriving DecidableEq, Repr

/-! ### System port (chapter 4) -/

inductive Access where
  | read | write
deriving DecidableEq, Repr

/-- Refusal reasons (Table 4-1). -/
inductive RefusalReason where
  | badSpan | unconfigured | deniedFence | deniedRule | deniedMedia | deniedPower | holdExpired
  | flashUnavailable
deriving DecidableEq, Repr

/-- A decision's rule index: a rule, or DEFAULT (Table 5-3). -/
inductive RuleIndex where
  | rule (n : Nat)
  | default
deriving DecidableEq, Repr

/-- A decision's action (Table 5-3). -/
inductive Action where
  | absorb
  | deny
  | latch (slot : Nat)
deriving DecidableEq, Repr

/-- A decision (Table 5-3). A capture target of none is NONE. -/
structure Decision where
  rule : RuleIndex
  action : Action
  capture : Option QueueName
  captureData : Bool
  urgent : Bool
deriving DecidableEq, Repr

/-- A read request (R82). -/
structure ReadReq where
  line : Addr
  offset : Nat
  length : Nat
deriving DecidableEq, Repr

/-- A write request (R82): one entry for each byte of the span, its value where it is selected. -/
structure WriteReq where
  line : Addr
  offset : Nat
  bytes : List (Option Byte)
deriving DecidableEq, Repr

/-- Where a read's bytes came from (R85). -/
inductive ReadSource where
  | overlay
  | entry (n : Nat)
  | flash
deriving DecidableEq, Repr

/-- A read's result (R85). -/
inductive ReadResult where
  | ok (bytes : List Byte) (source : ReadSource)
  | err (reason : RefusalReason)
deriving DecidableEq, Repr

/-- A read's stage (R85); RESOLVED carries the result. -/
inductive ReadStage where
  | resolving | waitingHazard | waitingFill | miss
  | resolved (result : ReadResult)
deriving DecidableEq, Repr

/-- A read of the read queue (R85). The tag is the model's own name for it (log entry 18). -/
structure Read where
  tag : Nat
  req : ReadReq
  decision : Option Decision
  stage : ReadStage
deriving DecidableEq, Repr

/-- Hold causes (R98). -/
inductive HoldCause where
  | waking | captureSpace | noEntry | committing
deriving DecidableEq, Repr

/-- Reply status codes (R169). -/
inductive Status where
  | accepted | refusedLocked | refusedState | refusedRange | refusedBusy | notFound | unknownCommand
deriving DecidableEq, Repr

/-- What a command hands the control unit to reply with (R169): status and payload; whether the command
left descriptors out (R53); whether the retry counter was zeroed (R173). -/
structure Reply where
  status : Status
  payload : List Byte
  cut : Bool
  zeroed : Bool
deriving DecidableEq, Repr

/-- The fuse groups (Table 10-1). -/
inductive FuseGroup where
  | key | profile | fence
deriving DecidableEq, Repr

/-- A fuse programming in progress (R179). -/
structure FuseJob where
  group : FuseGroup
  offset : Nat
  data : List Byte
deriving DecidableEq, Repr

/-- The stage of the write in progress (R94): a write taking its stages inside an event; an ordinary write
held for a cause; a control record being executed, waiting for its reply to be placed in the same event, programming fuses (R180), or awaiting the
soft reset it ordered (R175). -/
inductive WriteStage where
  | taking
  | held (cause : HoldCause)
  | control
  | replying (code : Byte) (reply : Reply)
  | fuseProgramming (job : FuseJob)
  | softReset
deriving DecidableEq, Repr

/-- The write in progress (R94). Whether a strict place is reserved for it is the reservation of its
decision's queue (R124). -/
structure WriteInProgress where
  req : WriteReq
  accepted : Tick
  hold : Option Tick
  stage : WriteStage
  decision : Option Decision
deriving DecidableEq, Repr

/-- The last refusal record (R102). -/
structure LastRefusal where
  reason : RefusalReason
  access : Access
  line : Addr
  rule : Option RuleIndex
  tick : Tick
deriving DecidableEq, Repr

/-- The system port, with the requests the interconnect presents that are not yet accepted (R84, log
entry 5). -/
structure Port where
  reads : List Read
  write : Option WriteInProgress
  lastRefusal : Option LastRefusal
  lanesOpen : Bool
  waitReads : List ReadReq
  waitWrites : List WriteReq
deriving DecidableEq, Repr

/-! ### Rule unit (chapter 5) -/

inductive FenceSide where
  | low | high
deriving DecidableEq, Repr

/-- The working fence (R104). -/
structure Fence where
  size : Nat
  side : FenceSide
  invert : Bool
deriving DecidableEq, Repr

inductive RuleKind where
  | range | pair | mask
deriving DecidableEq, Repr

inductive AppliesTo where
  | reads | writes | both
deriving DecidableEq, Repr

/-- The action field of a rule (Table 5-2); its slot is a field of its own. -/
inductive RuleAction where
  | absorb | deny | latch
deriving DecidableEq, Repr

/-- A region rule (Table 5-2). -/
structure Rule where
  enabled : Bool
  kind : RuleKind
  addr1 : Addr
  addr2 : Addr
  applies : AppliesTo
  action : RuleAction
  slot : Nat
  capture : Option QueueName
  captureData : Bool
  urgent : Bool
deriving DecidableEq, Repr

/-- Rule lock states (Table 5-4). -/
inductive LockState where
  | unlocked | guarded | frozen
deriving DecidableEq, Repr

/-- The rule unit, with the level of the GUARD line (log entry 7). The default action is ABSORB or DENY:
`defaultDeny` says which. -/
structure RuleUnit where
  fence : Fence
  rules : List Rule
  defaultDeny : Bool
  defaultCapture : Option QueueName
  lock : LockState
  lastUrgent : Option Nat
  guard : Bool
deriving DecidableEq, Repr

/-! ### Capture unit (chapter 6) -/

/-- Capture outcomes (Table 6-1). -/
inductive CaptureOutcome where
  | absorbed
  | served
  | refused (reason : RefusalReason)
deriving DecidableEq, Repr

/-- A capture record (Table 6-1). -/
structure CaptureRecord where
  number : BitVec 32
  tick : Tick
  access : Access
  line : Addr
  offset : Nat
  length : Nat
  rule : RuleIndex
  outcome : CaptureOutcome
  data : Option (List Byte)
deriving DecidableEq, Repr

inductive QueueMode where
  | lossy | overwrite | strict
deriving DecidableEq, Repr

/-- A capture queue (R124). -/
structure CaptureQueue where
  records : List CaptureRecord
  next : BitVec 32
  mode : QueueMode
  watermark : Nat
  dropped : Bool
  reserved : Bool
  staleExpiry : Option Tick
deriving DecidableEq, Repr

/-- The record of a latch slot (Table 6-2); its length is its data's. -/
structure LatchRecord where
  line : Addr
  offset : Nat
  data : List Byte
  tick : Tick
  rule : Nat
deriving DecidableEq, Repr

/-- A latch slot (R136). -/
structure LatchSlot where
  isNew : Bool
  record : Option LatchRecord
deriving DecidableEq, Repr

/-- The capture unit: queues A and B and the latch slots. -/
structure CaptureUnit where
  a : CaptureQueue
  b : CaptureQueue
  slots : List LatchSlot
deriving DecidableEq, Repr

/-! ### Power controller (chapter 7) -/

/-- Power states (Table 7-1). -/
inductive PowerState where
  | starting | unconfigured | run | drain | sleep | waking | emergency | safe
deriving DecidableEq, Repr

/-- The power policy (R152): `refuseInSleep` is sleep-read REFUSE. -/
structure PowerPolicy where
  refuseInSleep : Bool
  drainAbort : Bool
  deepSleep : Bool
deriving DecidableEq, Repr

/-- Why a drain failed (R141). -/
inductive DrainReason where
  | timeout | activity | faultedData | power
deriving DecidableEq, Repr

/-- A drain's result (R141). -/
inductive DrainOutcome where
  | entered
  | failed (reason : DrainReason)
deriving DecidableEq, Repr

/-- The last drain result (R141). -/
structure DrainResult where
  outcome : DrainOutcome
  tick : Tick
deriving DecidableEq, Repr

/-- The power controller (R141). -/
structure Power where
  st : PowerState
  policy : PowerPolicy
  drainExpiry : Option Tick
  lastDrain : Option DrainResult
  pwrwarn : Bool
deriving DecidableEq, Repr

/-! ### Timebase, events, control unit, fuses, outputs -/

/-- The timebase (R155, R157). -/
structure Timebase where
  tick : Tick
  subTick : Nat
  timing : TimingSettings
deriving DecidableEq, Repr

/-- The 21 events (Table 8-3, Table 11-2). -/
inductive Event where
  | captureWatermark (q : QueueName)
  | captureFull (q : QueueName)
  | captureDropped (q : QueueName)
  | captureStale (q : QueueName)
  | slotFilled | urgentAccess | accessRefused | holdExpired | mediaFault | flashStall | retryHalf
  | sleepEntered | sleepFailed | powerWarning | safeReached | controlCheckFailed | startupResumed
deriving DecidableEq, Repr

/-- Event flags and enables, each coded as the 4-byte event set of Table 11-2 (R160, R161). -/
structure Events where
  flags : BitVec 32
  enables : BitVec 32
deriving DecidableEq, Repr

/-- The reply overlay (R165). -/
structure Overlay where
  line : Addr
  count : Nat
  bytes : List Byte
  expiry : Tick
deriving DecidableEq, Repr

/-- The control unit (R165), and whether a soft reset has been accepted and not yet taken effect (R175). -/
structure Control where
  key : List Byte
  enable : Bool
  overlay : Option Overlay
  softReset : Bool
deriving DecidableEq, Repr

/-- The fuse array (R177). -/
structure Fuses where
  key : List Byte
  profile : List Byte
  fence : List Byte
  keyLocked : Bool
  profileLocked : Bool
  fenceLocked : Bool
deriving DecidableEq, Repr

inductive AnswerResult where
  | ok (bytes : List Byte)
  | err (reason : RefusalReason)
deriving DecidableEq, Repr

/-- An answer given at the system port (R82). -/
structure Answer where
  access : Access
  line : Addr
  offset : Nat
  length : Nat
  result : AnswerResult
deriving DecidableEq, Repr

/-- The SB204. `profile` is the copy of the PROFILE group taken at the last start-up, none in
UNCONFIGURED (R182). `answers` and `link` are the outputs of the latest event, `draws` counts free values
drawn, `pending` is the queue of commands waiting: the model's own fields (log entries 9 and 17). -/
structure State where
  port : Port
  control : Control
  rule : RuleUnit
  capture : CaptureUnit
  staging : Staging
  seq : Sequencer
  power : Power
  time : Timebase
  events : Events
  fuses : Fuses
  profile : Option (List Byte)
  powered : Bool
  resetHeld : Bool
  answers : List Answer
  link : List Spi
  draws : Nat
  pending : List Instr
deriving DecidableEq, Repr

/-- The reasons the machine stops with a fault: none. The spec names no condition in which the part stops;
every refusal it describes is an answer or a status and is modelled as one (safe). -/
inductive Fault where
deriving DecidableEq, Repr

/-- The reasons a command has no meaning. -/
inductive Refusal where
  /-- A command whose arm has no meaning yet. Raised by `exec` alone; no arm does (safe). -/
  | notModelled (mnemonic : String)
deriving DecidableEq, Repr

/-! ### Values at power-on -/

/-- Timing settings at their defaults (Table 8-1). -/
def TimingSettings.default : TimingSettings :=
  { prescaler := 100, idleClose := 50, ageClose := 2000, holdLimit := 3000, staleA := 10000, staleB := 10000,
    drainLimit := 20000, replyLifetime := 200, programLimit := 50, eraseLimit := 4000, suspendLimit := 2 }

/-- Flash policy defaults (R79). -/
def FlashPolicy.default : FlashPolicy :=
  { suspendEnable := true, eraseBudget := 3, programBudget := 1, resumeSpacing := 10, verifyEnable := true,
    commitShare := 16 }

/-- Power policy defaults (R152). -/
def PowerPolicy.default : PowerPolicy :=
  { refuseInSleep := false, drainAbort := false, deepSleep := true }

/-- The zeroed rule (R120). -/
def Rule.zero : Rule :=
  { enabled := false, kind := .range, addr1 := 0, addr2 := 0, applies := .reads, action := .absorb, slot := 0,
    capture := none, captureData := false, urgent := false }

/-- A capture queue at reset, with its reset watermark (R140). -/
def CaptureQueue.initial (watermark : Nat) : CaptureQueue :=
  { records := [], next := 0, mode := .lossy, watermark := watermark, dropped := false, reserved := false,
    staleExpiry := none }

/-- The capture unit at reset (R140). -/
def CaptureUnit.initial : CaptureUnit :=
  { a := CaptureQueue.initial 24, b := CaptureQueue.initial 12,
    slots := List.replicate Config.slotCount { isNew := false, record := none } }

/-- The staging controller at reset (R30, R49). -/
def Staging.initial : Staging :=
  { entries := List.replicate Config.entryCount .free, closeQueue := [], retry := 0 }

/-- The flash sequencer at reset (R80, R81). -/
def Sequencer.initial : Sequencer :=
  { st := .idle, misses := [], fills := [], powerReq := none, share := 0, deferred := none,
    policy := FlashPolicy.default }

/-- Event flags clear; MEDIA_FAULT, FLASH_STALL and POWER_WARNING (bits 12, 13, 17) enabled (R164). -/
def Events.initial : Events := { flags := 0, enables := 0x00023000 }

/-- The fuse array as delivered: CONTROL_ENABLE programmed, all else zero (R177). -/
def Fuses.delivered : Fuses :=
  { key := [0, 0, 0, 0, 0, 0, 0, 0, 1], profile := List.replicate 16 0, fence := [0], keyLocked := false,
    profileLocked := false, fenceLocked := false }

/-- The machine right after reset: the part as delivered (R177) after power-on. Its PROFILE group is
invalid, so start-up has ended in UNCONFIGURED with the lanes open (R178, R182). -/
def State.reset : State :=
  { port := { reads := [], write := none, lastRefusal := none, lanesOpen := true, waitReads := [], waitWrites := [] },
    control := { key := [0, 0, 0, 0, 0, 0, 0, 0], enable := true, overlay := none, softReset := false },
    rule := { fence := { size := 0, side := .low, invert := false }, rules := List.replicate Config.ruleCount Rule.zero,
              defaultDeny := false, defaultCapture := none, lock := .unlocked, lastUrgent := none, guard := false },
    capture := CaptureUnit.initial,
    staging := Staging.initial,
    seq := Sequencer.initial,
    power := { st := .unconfigured, policy := PowerPolicy.default, drainExpiry := none, lastDrain := none,
               pwrwarn := false },
    time := { tick := 0, subTick := 0, timing := TimingSettings.default },
    events := Events.initial,
    fuses := Fuses.delivered,
    profile := none,
    powered := true,
    resetHeld := false,
    answers := [],
    link := [],
    draws := 0,
    pending := [] }

end Sys2Proof.Machine
end

