-- ==== Sys2Proof/Machine/Ops.lean ====
section
/-! DEFINITION. The named operations over sector images, byte sets, blocks and outputs that every meaning is built from. -/

namespace Sys2Proof.Machine

/-! ### Sector images -/

/-- The byte an image holds at an offset; an unlisted offset reads FFH (Table 1-5). -/
def imgRead : Image → Nat → Byte
  | [], _ => 0xFF
  | (a, b) :: r, k => if a = k then b else imgRead r k

/-- Write one byte, keeping the canonical form. -/
def imgWrite : Image → Nat → Byte → Image
  | [], k, v => if v = 0xFF then [] else [(k, v)]
  | (a, b) :: r, k, v =>
    if k < a then (if v = 0xFF then (a, b) :: r else (k, v) :: (a, b) :: r)
    else if k = a then (if v = 0xFF then r else (k, v) :: r)
    else (a, b) :: imgWrite r k v

/-- The canonical form: offsets strictly rising from `lo`, below 4096, no byte FFH. -/
def imgWfFrom : Nat → Image → Bool
  | _, [] => true
  | lo, (a, b) :: r => decide (lo ≤ a) && decide (a < Config.sectorBytes) && decide (b ≠ 0xFF) && imgWfFrom (a + 1) r

/-- The canonical form of an image. -/
def Memory.wf (img : Image) : Bool := imgWfFrom 0 img

/-- Write bytes at consecutive offsets. -/
def imgWriteBytes (img : Image) (k : Nat) : List Byte → Image
  | [] => img
  | b :: r => imgWriteBytes (imgWrite img k b) (k + 1) r

/-- Write the selected bytes of a span at consecutive offsets; bytes not selected are left as they were (R11). -/
def imgMerge (img : Image) (k : Nat) : List (Option Byte) → Image
  | [] => img
  | none :: r => imgMerge img (k + 1) r
  | some b :: r => imgMerge (imgWrite img k b) (k + 1) r

/-- The bytes at `n` consecutive offsets from `k`. -/
def imgSpan (img : Image) (k : Nat) : Nat → List Byte
  | 0 => []
  | n + 1 => imgRead img k :: imgSpan img (k + 1) n

/-! ### The written-during-fill set: offsets strictly rising, no duplicates -/

/-- Add one offset to a set (R12). -/
def setInsert (k : Nat) : List Nat → List Nat
  | [] => [k]
  | a :: r => if k < a then k :: a :: r else if k = a then a :: r else a :: setInsert k r

/-- Add the offsets a span selects to a set (R12). -/
def addOffsets (set : List Nat) (k : Nat) : List (Option Byte) → List Nat
  | [] => set
  | none :: r => addOffsets set (k + 1) r
  | some _ :: r => addOffsets (setInsert k set) (k + 1) r

/-! ### Requests and addresses -/

/-- The address of the line an address falls in (R108). -/
def lineOf (a : Addr) : Addr := a &&& 0xFFFFC0

/-- The sector of a line address (chapter 1.6). -/
def sectorOf (line : Addr) : Nat := line.toNat / Config.sectorBytes

/-- The offset within its sector of the byte at `offset` of a line (chapter 1.6). -/
def sectorOffset (line : Addr) (offset : Nat) : Nat := line.toNat % Config.sectorBytes + offset

/-- Whether a write selects a byte (R82). -/
def selectsByte (bytes : List (Option Byte)) : Bool := bytes.any Option.isSome

/-- Replace the bytes of `old`, which starts at offset `at1`, by the selected bytes of a write whose span
starts at offset `at2` (R92). -/
def patchBytes (at1 : Nat) : List Byte → Nat → List (Option Byte) → List Byte
  | [], _, _ => []
  | b :: r, at2, new =>
    (if at1 < at2 then b
     else match new[at1 - at2]? with
       | some (some v) => v
       | _ => b) :: patchBytes (at1 + 1) r at2 new

/-! ### Ticks and timers -/

/-- The current tick. -/
def State.now (s : State) : Tick := s.time.tick

/-- Start a timer with a setting that 0 turns off (R31, R33, R130). -/
def startTimer (now : Tick) (setting : Half) : Option Tick :=
  if setting = 0 then none else some (now + setting.setWidth 32)

/-- Whether a timer is running and due at the current tick (R156). -/
def timerDue (now : Tick) : Option Tick → Bool
  | none => false
  | some t => t == now

/-! ### Outputs of the event -/

/-- Forget the outputs of the event before (log entry 17). -/
def State.clearOut (s : State) : State := { s with answers := [], link := [] }

/-- Give an answer at the port. -/
def State.giveAnswer (s : State) (a : Answer) : State := { s with answers := s.answers ++ [a] }

/-- Take a fresh draw of free values (log entry 9). -/
def State.draw (s : State) : State := { s with draws := s.draws + 1 }

/-! ### Block updates -/

def State.withStaging (s : State) (g : Staging) : State := { s with staging := g }
def State.withSeq (s : State) (q : Sequencer) : State := { s with seq := q }
def State.withPort (s : State) (p : Port) : State := { s with port := p }
def State.withPower (s : State) (p : Power) : State := { s with power := p }
def State.withRule (s : State) (r : RuleUnit) : State := { s with rule := r }
def State.withCapture (s : State) (c : CaptureUnit) : State := { s with capture := c }
def State.withControl (s : State) (c : Control) : State := { s with control := c }
def State.withEvents (s : State) (e : Events) : State := { s with events := e }
def State.withTime (s : State) (t : Timebase) : State := { s with time := t }
def State.withFuses (s : State) (f : Fuses) : State := { s with fuses := f }

/-- Set the sequencer's state. -/
def State.setSeqSt (s : State) (x : SeqState) : State := s.withSeq { s.seq with st := x }

/-- Set the power state. -/
def State.setPowerSt (s : State) (x : PowerState) : State := s.withPower { s.power with st := x }

/-- Set the write in progress. -/
def State.setWrite (s : State) (w : Option WriteInProgress) : State := s.withPort { s.port with write := w }

/-- Replace the read queue. -/
def State.setReads (s : State) (r : List Read) : State := s.withPort { s.port with reads := r }

/-- Change the read with a tag. -/
def State.updateRead (s : State) (tag : Nat) (f : Read → Read) : State :=
  s.setReads (s.port.reads.map fun r => if r.tag = tag then f r else r)

/-- Set the stage of the read with a tag. -/
def State.setStage (s : State) (tag : Nat) (x : ReadStage) : State :=
  s.updateRead tag fun r => { r with stage := x }

/-- The read with a tag. -/
def State.readOf (s : State) (tag : Nat) : Option Read := s.port.reads.find? fun r => r.tag == tag

end Sys2Proof.Machine
end

