-- ==== Sys2Proof/Machine/Flags.lean ====
section
/-! DEFINITION. Event flags and the lines computed from them (chapter 8), and the derived properties of an entry: dirty pages, erase-needed, unwritten data (chapter 1.3), from which DIRTY is driven (R153). -/

namespace Sys2Proof.Machine

/-- A queue's place in an event pair: A then B (Table 11-2). -/
def queueBit : QueueName → Nat
  | .a => 0
  | .b => 1

/-- The bit of an event in an event set (Table 11-2). -/
def eventBit : Event → Nat
  | .captureWatermark q => 0 + queueBit q
  | .captureFull q => 2 + queueBit q
  | .captureDropped q => 4 + queueBit q
  | .captureStale q => 6 + queueBit q
  | .slotFilled => 8
  | .urgentAccess => 9
  | .accessRefused => 10
  | .holdExpired => 11
  | .mediaFault => 12
  | .flashStall => 13
  | .retryHalf => 14
  | .sleepEntered => 15
  | .sleepFailed => 16
  | .powerWarning => 17
  | .safeReached => 18
  | .controlCheckFailed => 19
  | .startupResumed => 20

/-- The event set that names one event. -/
def eventMask (e : Event) : BitVec 32 := 1 <<< eventBit e

/-- The positions of an event set assigned to an event: bits 0 to 20 (Table 11-2). -/
def assignedEvents : BitVec 32 := 0x001FFFFF

/-- Raise an event: its flag is set, whether or not its enable is (R160). -/
def State.raise (s : State) (e : Event) : State :=
  s.withEvents { s.events with flags := s.events.flags ||| eventMask e }

/-- Raise several events of one event (R160). -/
def State.raiseAll (s : State) (es : List Event) : State := es.foldl State.raise s

/-- Whether an event's flag is set. -/
def State.flagSet (s : State) (e : Event) : Bool := s.events.flags.getLsbD (eventBit e)

/-- The IRQ line: high while an enabled flag is set (R161). -/
def State.irqLine (s : State) : Bool := s.events.flags &&& s.events.enables != 0

/-! ### Derived properties of an entry -/

/-- The sector fields of an entry, absent in a FREE one (Table 1-2). -/
def Entry.data? : Entry → Option Sector
  | .free => none
  | .filling d _ => some d
  | .opened d _ => some d
  | .closed d _ => some d
  | .committing d _ _ => some d
  | .clean d => some d
  | .faulted d _ => some d

/-- The sector an entry refers to (R2). -/
def Entry.sector? (e : Entry) : Option Nat := e.data?.map (·.number)

/-- Whether the working byte at an offset differs from the base byte (R4). -/
def byteDiffers (d : Sector) (k : Nat) : Bool := imgRead d.work k != imgRead d.base k

/-- Whether page `p` is dirty: a working byte of it differs from the base byte (R4). Offsets in neither
list hold FFH in both images, so the listed ones decide. -/
def pageDirty (d : Sector) (p : Nat) : Bool :=
  (d.base ++ d.work).any fun c => c.1 / Config.pageBytes == p && byteDiffers d c.1

/-- The dirty pages, ascending (R4). -/
def dirtyPages (d : Sector) : List Nat := (List.range Config.sectorPages).filter (pageDirty d)

/-- Whether there is a dirty page (R4). -/
def hasDirty (d : Sector) : Bool := !(dirtyPages d).isEmpty

/-- Erase-needed: a working byte has a one where the base byte has a zero (R5). -/
def eraseNeeded (d : Sector) : Bool :=
  (d.base ++ d.work).any fun c => imgRead d.work c.1 &&& ~~~ (imgRead d.base c.1) != 0

/-- Whether an entry holds unwritten data (R6). -/
def Entry.unwritten : Entry → Bool
  | .free => false
  | .filling _ _ => true
  | .opened d _ => hasDirty d
  | .closed _ _ => true
  | .committing _ _ _ => true
  | .clean _ => false
  | .faulted _ _ => true

/-- Whether the part holds unwritten data (R6). -/
def State.unwritten (s : State) : Bool := s.staging.entries.any Entry.unwritten

/-- The DIRTY line (R153). -/
def State.dirtyLine (s : State) : Bool := s.unwritten

end Sys2Proof.Machine
end

