-- ==== Sys2Proof/Machine/Operands.lean ====
section
/-! DEFINITION. The codes and byte orders of chapter 11, the check field (R187), and the control record. -/

namespace Sys2Proof.Machine

/-! ### Byte orders (R186) -/

def byteOf (n : Nat) : Byte := BitVec.ofNat 8 n

/-- A 2-byte number, least significant byte first (R186). -/
def le2 (n : Nat) : List Byte := [byteOf n, byteOf (n / 256)]

/-- A 3-byte number, least significant byte first (R186). -/
def le3 (n : Nat) : List Byte := [byteOf n, byteOf (n / 256), byteOf (n / 65536)]

/-- A 4-byte number, least significant byte first (R186). -/
def le4 (n : Nat) : List Byte := [byteOf n, byteOf (n / 256), byteOf (n / 65536), byteOf (n / 16777216)]

/-- The byte at a place of a list, 00H past its end. -/
def byteAt (l : List Byte) (i : Nat) : Byte := l.getD i 0

/-- The 2-byte number at a place (R186). -/
def half (l : List Byte) (i : Nat) : Half := byteAt l (i + 1) ++ byteAt l i

/-- The 3-byte line address at a place (R186). -/
def addr (l : List Byte) (i : Nat) : Addr := byteAt l (i + 2) ++ byteAt l (i + 1) ++ byteAt l i

/-- The 4-byte number at a place (R186). -/
def word (l : List Byte) (i : Nat) : BitVec 32 :=
  byteAt l (i + 3) ++ byteAt l (i + 2) ++ byteAt l (i + 1) ++ byteAt l i

/-- A flag as a byte: 00H no, 01H yes (Table 11-1). -/
def yesNo (b : Bool) : Byte := if b then 1 else 0

/-- `n` bytes: the list cut, or filled up with 00H. -/
def padTo (n : Nat) (l : List Byte) : List Byte := (l ++ List.replicate n 0).take n

/-! ### Codes (Table 11-1) -/

def PowerState.code : PowerState → Byte
  | .starting => 0x00 | .unconfigured => 0x01 | .run => 0x02 | .drain => 0x03
  | .sleep => 0x04 | .waking => 0x05 | .emergency => 0x06 | .safe => 0x07

def SeqState.code : SeqState → Byte
  | .idle => 0x00 | .reading _ => 0x01 | .busy _ => 0x02 | .suspending _ _ => 0x03
  | .suspended _ _ => 0x04 | .resuming _ => 0x05 | .stalled => 0x06 | .asleep => 0x07
  | .waking _ => 0x08 | .startupWait _ _ => 0x09

def LockState.code : LockState → Byte
  | .unlocked => 0x00 | .guarded => 0x01 | .frozen => 0x02

def RuleKind.code : RuleKind → Byte
  | .range => 0x00 | .pair => 0x01 | .mask => 0x02

def AppliesTo.code : AppliesTo → Byte
  | .reads => 0x00 | .writes => 0x01 | .both => 0x02

def RuleAction.code : RuleAction → Byte
  | .absorb => 0x00 | .deny => 0x01 | .latch => 0x02

def targetCode : Option QueueName → Byte
  | none => 0x00 | some .a => 0x01 | some .b => 0x02

def QueueMode.code : QueueMode → Byte
  | .lossy => 0x00 | .overwrite => 0x01 | .strict => 0x02

def RefusalReason.code : RefusalReason → Byte
  | .badSpan => 0x01 | .unconfigured => 0x02 | .deniedFence => 0x03 | .deniedRule => 0x04
  | .deniedMedia => 0x05 | .deniedPower => 0x06 | .holdExpired => 0x07 | .flashUnavailable => 0x08

def CaptureOutcome.code : CaptureOutcome → Byte
  | .absorbed => 0x10 | .served => 0x11 | .refused r => r.code

def FaultKind.code : FaultKind → Byte
  | .eraseFailed => 0x01 | .programFailed => 0x02 | .verifyMismatch => 0x03 | .flashTimeout => 0x04

def RuleIndex.code : RuleIndex → Byte
  | .rule n => byteOf n
  | .default => 0xFE

def Access.code : Access → Byte
  | .read => 0x00 | .write => 0x01

def FenceSide.code : FenceSide → Byte
  | .low => 0x00 | .high => 0x01

def FuseGroup.code : FuseGroup → Byte
  | .key => 0x01 | .profile => 0x02 | .fence => 0x03

def DrainOutcome.codes : DrainOutcome → Byte × Byte
  | .entered => (0x01, 0x00)
  | .failed .timeout => (0x02, 0x01)
  | .failed .activity => (0x02, 0x02)
  | .failed .faultedData => (0x02, 0x03)
  | .failed .power => (0x02, 0x04)

/-- Reply status codes (Table 11-6). -/
def Status.code : Status → Byte
  | .accepted => 0x00 | .refusedLocked => 0x01 | .refusedState => 0x02 | .refusedRange => 0x03
  | .refusedBusy => 0x04 | .notFound => 0x05 | .unknownCommand => 0x06

/-! ### Decoding of argument codes: none for a code absent from Table 11-1 (R186) -/

def boolArg (b : Byte) : Option Bool :=
  if b = 0x00 then some false else if b = 0x01 then some true else none

def queueArg (b : Byte) : Option QueueName :=
  if b = 0x01 then some .a else if b = 0x02 then some .b else none

def targetArg (b : Byte) : Option (Option QueueName) :=
  if b = 0x00 then some none else if b = 0x01 then some (some .a) else if b = 0x02 then some (some .b) else none

def modeArg (b : Byte) : Option QueueMode :=
  if b = 0x00 then some .lossy else if b = 0x01 then some .overwrite else if b = 0x02 then some .strict else none

def lockArg (b : Byte) : Option LockState :=
  if b = 0x00 then some .unlocked else if b = 0x01 then some .guarded else if b = 0x02 then some .frozen else none

def kindArg (b : Byte) : Option RuleKind :=
  if b = 0x00 then some .range else if b = 0x01 then some .pair else if b = 0x02 then some .mask else none

def appliesArg (b : Byte) : Option AppliesTo :=
  if b = 0x00 then some .reads else if b = 0x01 then some .writes else if b = 0x02 then some .both else none

def actionArg (b : Byte) : Option RuleAction :=
  if b = 0x00 then some .absorb else if b = 0x01 then some .deny else if b = 0x02 then some .latch else none

def sideArg (b : Byte) : Option FenceSide :=
  if b = 0x00 then some .low else if b = 0x01 then some .high else none

def groupArg (b : Byte) : Option FuseGroup :=
  if b = 0x01 then some .key else if b = 0x02 then some .profile else if b = 0x03 then some .fence else none

/-! ### The check field (R187) -/

/-- One shift of the register: with 1021H combined when the top bit was one. -/
def crcShift (r : Half) : Half := if r.getMsbD 0 then (r <<< 1) ^^^ 0x1021 else r <<< 1

/-- One byte: combined into the upper 8 bits, then eight shifts. -/
def crcByte (r : Half) (b : Byte) : Half :=
  crcShift (crcShift (crcShift (crcShift (crcShift (crcShift (crcShift (crcShift (r ^^^ (b ++ (0 : Byte))))))))))

/-- The CRC-16 of bytes in ascending order, from FFFFH (R187). -/
def crc16 (bytes : List Byte) : Half := bytes.foldl crcByte 0xFFFF

/-- A check field's two bytes, most significant first (R186). -/
def crcField (c : Half) : List Byte := [c.extractLsb' 8 8, c.extractLsb' 0 8]

/-! ### The control record (Table 11-3) -/

/-- The bytes of the control record that carries a command: key, code, arguments filled up with 00H, check
field. -/
def recordBytes (key : List Byte) (code : Byte) (args : List Byte) : List Byte :=
  key ++ (code :: padTo 53 args) ++ crcField (crc16 (code :: padTo 53 args))

/-- The line write that is the control record of a command (Table 11-3). -/
def controlRecord (key : List Byte) (line : Addr) (code : Byte) (args : List Byte) : WriteReq :=
  { line := line, offset := 0, bytes := (recordBytes key code args).map some }

/-- The bytes of a span with every enable set, none when one is clear. -/
def allBytes : List (Option Byte) → Option (List Byte)
  | [] => some []
  | none :: _ => none
  | some b :: r => (allBytes r).map (b :: ·)

/-- The 64 bytes of a full aligned line write that carries the key: conditions 2 and 3 of R166. -/
def keyedLine (key : List Byte) (req : WriteReq) : Option (List Byte) :=
  if req.offset = 0 ∧ req.bytes.length = 64 then
    match allBytes req.bytes with
    | some bs => if bs.take 8 = key then some bs else none
    | none => none
  else none

/-- Condition 4 of R166: the check field equals the CRC-16 of bytes 8 to 61. -/
def checkHolds (bs : List Byte) : Bool := bs.drop 62 == crcField (crc16 ((bs.drop 8).take 54))

/-! ### Arguments as a record carries them (Table 11-4) -/

/-- SET-TIMING's arguments. -/
def timingBytes (t : TimingSettings) : List Byte :=
  le2 t.prescaler.toNat ++ le2 t.idleClose.toNat ++ le2 t.ageClose.toNat ++ le2 t.holdLimit.toNat ++
  le2 t.staleA.toNat ++ le2 t.staleB.toNat ++ le2 t.drainLimit.toNat ++ le2 t.replyLifetime.toNat ++
  le2 t.programLimit.toNat ++ le2 t.eraseLimit.toNat ++ [t.suspendLimit]

/-- SET-TIMING's arguments decoded. -/
def timingArg (l : List Byte) : TimingSettings :=
  { prescaler := half l 0, idleClose := half l 2, ageClose := half l 4, holdLimit := half l 6, staleA := half l 8,
    staleB := half l 10, drainLimit := half l 12, replyLifetime := half l 14, programLimit := half l 16,
    eraseLimit := half l 18, suspendLimit := byteAt l 20 }

/-- The rule record's 13 bytes (Table 11-7). -/
def ruleArgBytes (r : RuleArgs) : List Byte :=
  [r.index, r.flags, r.kind, r.applies, r.action, r.slot, r.capture] ++ le3 r.addr1.toNat ++ le3 r.addr2.toNat

/-- The rule record decoded (Table 11-7). -/
def ruleArg (l : List Byte) : RuleArgs :=
  { index := byteAt l 0, flags := byteAt l 1, kind := byteAt l 2, applies := byteAt l 3, action := byteAt l 4,
    slot := byteAt l 5, capture := byteAt l 6, addr1 := addr l 7, addr2 := addr l 10 }

/-- SET-FLASH-POLICY's arguments (Table 11-4). -/
def policyArgBytes (p : PolicyArgs) : List Byte :=
  [p.suspendEnable, p.eraseBudget, p.programBudget, p.resumeSpacing, p.verifyEnable, p.commitShare]

/-- SET-FLASH-POLICY's arguments decoded. -/
def policyArg (l : List Byte) : PolicyArgs :=
  { suspendEnable := byteAt l 0, eraseBudget := byteAt l 1, programBudget := byteAt l 2, resumeSpacing := byteAt l 3,
    verifyEnable := byteAt l 4, commitShare := byteAt l 5 }

end Sys2Proof.Machine
end

