-- ==== Sys2Proof/Machine/Capture.lean ====
section
/-! DEFINITION. The capture unit's operations: occupancy, puts, reservations, stale timers, latch copies (chapter 6). -/

namespace Sys2Proof.Machine

/-- The queue of a name. -/
def CaptureUnit.queue (c : CaptureUnit) : QueueName → CaptureQueue
  | .a => c.a
  | .b => c.b

/-- Replace the queue of a name. -/
def CaptureUnit.setQueue (c : CaptureUnit) (n : QueueName) (q : CaptureQueue) : CaptureUnit :=
  match n with
  | .a => { c with a := q }
  | .b => { c with b := q }

/-- The stale limit of a queue (R130). -/
def staleLimit (t : TimingSettings) : QueueName → Half
  | .a => t.staleA
  | .b => t.staleB

/-- The occupancy: the record count, plus one while a place is reserved (R124). -/
def CaptureQueue.occupancy (q : CaptureQueue) : Nat := q.records.length + (if q.reserved then 1 else 0)

/-- Whether a queue of a capacity has room (R124). -/
def CaptureQueue.hasRoom (q : CaptureQueue) (cap : Nat) : Bool := decide (q.occupancy < cap)

/-- Give a record the next sequence number (R125). -/
def CaptureQueue.number (q : CaptureQueue) (r : CaptureRecord) : CaptureRecord := { r with number := q.next }

/-- Append a record at the tail (R125). A put into an empty queue starts the stale timer (R130). -/
def CaptureQueue.append (q : CaptureQueue) (now : Tick) (stale : Half) (r : CaptureRecord) : CaptureQueue :=
  { q with
    records := q.records ++ [q.number r],
    next := q.next + 1,
    staleExpiry := if q.records.isEmpty then startTimer now stale else q.staleExpiry }

/-- The events of a put that changed the record count: the watermark and full events (R128). -/
def countEvents (n : QueueName) (q : CaptureQueue) : List Event :=
  (if q.records.length = q.watermark then [.captureWatermark n] else []) ++
  (if q.records.length = Config.queueCapacity n then [.captureFull n] else [])

/-- A put on a full queue in mode OVERWRITE: the head is removed, the record appended (R125). -/
def CaptureQueue.overwriteHead (q : CaptureQueue) (r : CaptureRecord) : CaptureQueue :=
  { q with records := q.records.drop 1 ++ [q.number r], next := q.next + 1, dropped := true }

/-- A put (R125). With `useReserved` the record takes the place reserved for it. Without, a STRICT queue is
put into as a LOSSY one. Answers the queue and the events raised. -/
def CaptureQueue.put (n : QueueName) (now : Tick) (stale : Half) (useReserved : Bool) (r : CaptureRecord)
    (q : CaptureQueue) : CaptureQueue × List Event :=
  if useReserved && q.reserved then
    let q' := ({ q with reserved := false }).append now stale r
    (q', countEvents n q')
  else if q.hasRoom (Config.queueCapacity n) then
    let q' := q.append now stale r
    (q', countEvents n q')
  else if q.mode = .overwrite then (q.overwriteHead r, [.captureDropped n])
  else ({ q with dropped := true }, [.captureDropped n])

/-- Put a record into a queue and raise its events (R125, R128, R129). -/
def State.putRecord (s : State) (n : QueueName) (useReserved : Bool) (r : CaptureRecord) : State :=
  let p := (s.capture.queue n).put n s.now (staleLimit s.time.timing n) useReserved r
  (s.withCapture (s.capture.setQueue n p.1)).raiseAll p.2

/-- Reserve a place of a STRICT queue for the write in progress (R126). -/
def State.reserve (s : State) (n : QueueName) : State :=
  s.withCapture (s.capture.setQueue n { s.capture.queue n with reserved := true })

/-- Release the reservation of a queue (R127). -/
def State.release (s : State) (n : QueueName) : State :=
  s.withCapture (s.capture.setQueue n { s.capture.queue n with reserved := false })

/-- The latch slot of a number; an empty one past slot 7. -/
def CaptureUnit.slot (c : CaptureUnit) (n : Nat) : LatchSlot := (c.slots[n]?).getD { isNew := false, record := none }

/-- Whether the NEW flag of a slot is set (R111). -/
def CaptureUnit.slotNew (c : CaptureUnit) (n : Nat) : Bool := (c.slot n).isNew

/-- Copy a write into a latch slot (R136): the record is replaced whole, NEW is set, SLOT_FILLED raised. -/
def State.latchCopy (s : State) (n : Nat) (r : LatchRecord) : State :=
  (s.withCapture { s.capture with slots := s.capture.slots.set n { isNew := true, record := some r } }).raise .slotFilled

/-- The rule of a decision as a latch record carries it: a LATCH decision is always a rule's (R113). -/
def RuleIndex.number : RuleIndex → Nat
  | .rule n => n
  | .default => 0

/-- A queue's stale expiry (R131): CAPTURE_STALE is raised and the timer restarts, or stops at limit 0. -/
def State.expireStale (s : State) (n : QueueName) : State :=
  (s.withCapture (s.capture.setQueue n
    { s.capture.queue n with staleExpiry := startTimer s.now (staleLimit s.time.timing n) })).raise (.captureStale n)

/-- What an ACK-CAPTURE does to a queue (R133): the number of records it removes, or none when refused. -/
def ackCount (q : CaptureQueue) (s : BitVec 32) : Option Nat :=
  let h := match q.records with
    | [] => q.next
    | r :: _ => r.number
  let d := (s - h).toNat
  if d < q.records.length then some (d + 1)
  else if 2147483648 ≤ d then some 0
  else none

/-- Remove records from the head, restarting or stopping the stale timer (R130, R133). -/
def CaptureQueue.remove (q : CaptureQueue) (now : Tick) (stale : Half) (k : Nat) : CaptureQueue :=
  if k = 0 then q
  else
    let rest := q.records.drop k
    { q with records := rest, staleExpiry := if rest.isEmpty then none else startTimer now stale }

end Sys2Proof.Machine
end

