-- ==== Sys2Proof/Machine/Rules.lean ====
section
/-! DEFINITION. The rule unit's operations: the fence, the window, rule matching and decisions (chapter 5). -/

namespace Sys2Proof.Machine

/-- The flash size in bytes of a PROFILE size code: 1, 2, 4, 8 or 16 MiB (R177). -/
def flashSize (code : Nat) : Nat := if code = 0 then 0 else 1048576 * 2 ^ (code - 1)

/-- The window size, from the profile in use; none in UNCONFIGURED (R82, R182). -/
def State.windowSize (s : State) : Option Nat := s.profile.map fun p => flashSize (byteAt p 0).toNat

/-- Whether an address lies at or beyond the window size; never so in UNCONFIGURED, where the size is not
known (R83, R115). -/
def State.beyondWindow (s : State) (a : Nat) : Bool :=
  match s.windowSize with
  | none => false
  | some f => decide (f ≤ a)

/-- Whether a sector number is at or beyond the number of sectors in the flash; not checked in UNCONFIGURED
(R39, R54). -/
def State.beyondSectors (s : State) (n : Nat) : Bool := s.beyondWindow (n * Config.sectorBytes)

/-- The extent of a fence size code: nothing for 0, the whole flash for 7, a power-of-two fraction between
(R104). -/
def fenceExtent (f code : Nat) : Nat := if code = 0 then 0 else f / 2 ^ (7 - code)

/-- The protected area: its first byte and the byte after its last; equal when nothing is protected (R104). -/
def Fence.area (fence : Fence) (f : Nat) : Nat × Nat :=
  let e := fenceExtent f fence.size
  match fence.side, fence.invert with
  | .low, false => (0, e)
  | .high, false => (f - e, f)
  | .low, true => (e, f)
  | .high, true => (0, f - e)

/-- Whether a line lies inside the fence (R105). -/
def State.inFence (s : State) (line : Addr) : Bool :=
  match s.windowSize with
  | none => false
  | some f =>
    let area := s.rule.fence.area f
    decide (area.1 ≤ line.toNat) && decide (line.toNat < area.2)

/-- Whether a rule's kind and address fields match a line (R109). -/
def Rule.matchesLine (r : Rule) (line : Addr) : Bool :=
  match r.kind with
  | .range => decide (r.addr1.toNat ≤ line.toNat) && decide (line.toNat ≤ r.addr2.toNat)
  | .pair => line == r.addr1 || line == r.addr2
  | .mask => (line ^^^ r.addr1) &&& (r.addr2 &&& 0xFFFFC0) == 0

/-- Whether applies-to covers an access (R110). -/
def AppliesTo.covers : AppliesTo → Access → Bool
  | .reads, .read => true
  | .reads, .write => false
  | .writes, .read => false
  | .writes, .write => true
  | .both, _ => true

/-- Whether a rule decides a request: enabled, line and access match, and no LATCH into a slot whose NEW
flag is set (R110, R111). -/
def Rule.decides (r : Rule) (c : CaptureUnit) (access : Access) (line : Addr) : Bool :=
  r.enabled && r.matchesLine line && r.applies.covers access &&
  (decide (r.action ≠ .latch) || !c.slotNew r.slot)

/-- The action of a decision by a rule (R110). -/
def Rule.decisionAction (r : Rule) : Action :=
  match r.action with
  | .absorb => .absorb
  | .deny => .deny
  | .latch => .latch r.slot

/-- The decision of the rule at an index (R110). -/
def ruleDecision (i : Nat) (r : Rule) : Decision :=
  { rule := .rule i, action := r.decisionAction, capture := r.capture, captureData := r.captureData, urgent := r.urgent }

/-- The default decision (R113). -/
def RuleUnit.defaultDecision (u : RuleUnit) : Decision :=
  { rule := .default, action := if u.defaultDeny then .deny else .absorb, capture := u.defaultCapture,
    captureData := false, urgent := false }

/-- The first rule, in ascending index, that decides a request (R110); `i` numbers the first of the list. -/
def firstDeciding (c : CaptureUnit) (access : Access) (line : Addr) : Nat → List Rule → Option Decision
  | _, [] => none
  | i, r :: rest => if r.decides c access line then some (ruleDecision i r) else firstDeciding c access line (i + 1) rest

/-- The decision of a request (R110, R113). -/
def State.decisionFor (s : State) (access : Access) (line : Addr) : Decision :=
  (firstDeciding s.capture access line 0 s.rule.rules).getD s.rule.defaultDecision

/-- What a decision with the urgent flag causes in its event (R112). -/
def State.noteUrgent (s : State) (d : Decision) : State :=
  if d.urgent then (s.withRule { s.rule with lastUrgent := some d.rule.number }).raise .urgentAccess else s

/-- The lock check of SET-RULE, SET-DEFAULT and SET-FENCE: whether the change is forbidden (R118). -/
def RuleUnit.forbidsChange (u : RuleUnit) : Bool :=
  match u.lock with
  | .unlocked => false
  | .guarded => !u.guard
  | .frozen => true

end Sys2Proof.Machine
end

