-- ==== Sys2Proof/Machine/Staging.lean ====
section
/-! DEFINITION. The staging controller's operations: close, merge, allocation, fill, commit and fault (chapters 1 and 2). Those of one entry are functions of the entry; those of the table are functions of the staging block. -/

namespace Sys2Proof.Machine

/-! ### Looking the table up -/

/-- The entry that refers to a sector (R2). -/
def Staging.find (g : Staging) (n : Nat) : Option Nat := g.entries.findIdx? fun e => e.sector? == some n

/-- The entry at a number; FREE past the table. -/
def Staging.entry (g : Staging) (i : Nat) : Entry := (g.entries[i]?).getD .free

/-- The entry of a sector, if it has one (R2). -/
def Staging.entryOf (g : Staging) (n : Nat) : Option Entry := (g.find n).map g.entry

/-- Replace an entry. -/
def Staging.setEntry (g : Staging) (i : Nat) (e : Entry) : Staging := { g with entries := g.entries.set i e }

def Entry.isFree : Entry → Bool
  | .free => true
  | _ => false

def Entry.isCommitting : Entry → Bool
  | .committing _ _ _ => true
  | _ => false

def Entry.isFaulted : Entry → Bool
  | .faulted _ _ => true
  | _ => false

/-- The entry that is COMMITTING (R38: at most one). -/
def Staging.committingIndex (g : Staging) : Option Nat := g.entries.findIdx? Entry.isCommitting

/-- The place of the entry with the greatest elapsed time of a tick, the lowest number first among equals
(R8), with that elapsed time. Entries without the tick take no part; `i` numbers the first entry. -/
def pickOldest (key : Entry → Option Tick) (now : Tick) : Nat → List Entry → Option (Nat × Nat)
  | _, [] => none
  | i, e :: r =>
    match key e, pickOldest key now (i + 1) r with
    | none, best => best
    | some t, none => some (i, elapsed now t)
    | some t, some (j, d) => if d ≤ elapsed now t then some (i, elapsed now t) else some (j, d)

/-- The last-use tick of a CLEAN entry, which orders it for reuse (R19). -/
def cleanUse : Entry → Option Tick
  | .clean d => some d.lastUse
  | _ => none

/-- The first-write tick of an OPEN entry that holds unwritten data, which orders it for pressure (R20). -/
def dirtyFirstWrite : Entry → Option Tick
  | .opened d _ => if hasDirty d then some d.firstWrite else none
  | _ => none

/-- The place an allocation takes: the lowest-numbered FREE entry (R18), else the least recently used CLEAN
one (R19). -/
def Staging.place (g : Staging) (now : Tick) : Option Nat :=
  match g.entries.findIdx? Entry.isFree with
  | some i => some i
  | none => (pickOldest cleanUse now 0 g.entries).map (·.1)

/-- The entry pressure closes: the oldest OPEN entry that holds unwritten data (R20). -/
def Staging.pressureEntry (g : Staging) (now : Tick) : Option Nat :=
  (pickOldest dirtyFirstWrite now 0 g.entries).map (·.1)

/-! ### Closing (R9) -/

/-- What a close does to an entry (R9). -/
inductive CloseEffect where
  | nothing | madeClosed | marked | madeClean
deriving DecidableEq, Repr

/-- What a close does to an entry, by its state (R9). -/
def closeEffect : Entry → CloseEffect
  | .opened d _ => if hasDirty d then .madeClosed else .madeClean
  | .filling _ f => if f.closeOnFill.isNone then .marked else .nothing
  | _ => .nothing

/-- The entry after a close (R9). A close-on-fill already set keeps its cause. -/
def closedEntry (cause : CloseCause) : Entry → Entry
  | .opened d _ => if hasDirty d then .closed d cause else .clean d
  | .filling d f => .filling d { f with closeOnFill := f.closeOnFill.or (some cause) }
  | e => e

/-- A close of one entry: it joins the tail of the close queue when it becomes CLOSED (R9, R37). -/
def Staging.close (cause : CloseCause) (g : Staging) (i : Nat) : Staging :=
  { g with
    entries := g.entries.set i (closedEntry cause (g.entry i)),
    closeQueue := if closeEffect (g.entry i) = .madeClosed then g.closeQueue ++ [i] else g.closeQueue }

/-- A close of every entry in ascending entry number (R39, R40). -/
def Staging.closeAll (cause : CloseCause) (g : Staging) : Staging :=
  (List.range Config.entryCount).foldl (Staging.close cause) g

/-! ### Merging (R11 to R14) -/

/-- The images and ticks after a merge: working bytes written, last-write and last-use set (R7, R11). -/
def mergeSector (now : Tick) (off : Nat) (bytes : List (Option Byte)) (d : Sector) : Sector :=
  { d with work := imgMerge d.work off bytes, lastWrite := now, lastUse := now }

/-- A merge into an OPEN entry, or into a CLEAN one, which it makes OPEN (R13). The idle timer restarts
(R31). A merge that makes the entry hold unwritten data sets the first-write tick (R7) and starts the age
timer (R33); one that leaves no dirty page stops it. -/
def mergeOpen (now : Tick) (t : TimingSettings) (off : Nat) (bytes : List (Option Byte)) (d : Sector)
    (age : Option Tick) : Entry :=
  let d' := mergeSector now off bytes d
  let idle := startTimer now t.idleClose
  if hasDirty d' then
    if hasDirty d then .opened d' { idle := idle, age := age }
    else .opened { d' with firstWrite := now } { idle := idle, age := startTimer now t.ageClose }
  else .opened d' { idle := idle, age := none }

/-- A merge into the entry of the write's sector; none where the state admits no merge (Table 1-4). -/
def mergeEntry (now : Tick) (t : TimingSettings) (off : Nat) (bytes : List (Option Byte)) : Entry → Option Entry
  | .filling d f =>
    some (.filling (mergeSector now off bytes d)
      { f with written := addOffsets f.written off bytes,
               timers := { f.timers with idle := startTimer now t.idleClose } })
  | .opened d tm => some (mergeOpen now t off bytes d tm.age)
  | .clean d => some (mergeOpen now t off bytes d none)
  | .closed d c => some (.closed (mergeSector now off bytes d) c)
  | .free => none
  | .committing _ _ _ => none
  | .faulted _ _ => none

/-- The entry an allocation makes, with its first write merged (Table 1-5, R18). -/
def allocatedEntry (now : Tick) (t : TimingSettings) (sector off : Nat) (bytes : List (Option Byte)) : Entry :=
  .filling
    { number := sector, base := [], work := imgMerge [] off bytes, firstWrite := now, lastWrite := now, lastUse := now }
    { written := addOffsets [] off bytes, closeOnFill := none,
      timers := { idle := startTimer now t.idleClose, age := startTimer now t.ageClose },
      idlePending := false, agePending := false }

/-- Set the last-use tick of an entry (R7, R27). -/
def touchEntry (now : Tick) : Entry → Entry
  | .free => .free
  | .filling d f => .filling { d with lastUse := now } f
  | .opened d t => .opened { d with lastUse := now } t
  | .closed d c => .closed { d with lastUse := now } c
  | .committing d c p => .committing { d with lastUse := now } c p
  | .clean d => .clean { d with lastUse := now }
  | .faulted d r => .faulted { d with lastUse := now } r

/-- Set the last-use tick of the entry at a number (R7). -/
def Staging.touch (g : Staging) (now : Tick) (i : Nat) : Staging := g.setEntry i (touchEntry now (g.entry i))

/-! ### The fill (R22 to R26) -/

/-- Store a fill page in the base image of a FILLING entry; any other entry drops it (R23). -/
def storePage (page : Nat) (bytes : List Byte) : Entry → Entry
  | .filling d f => .filling { d with base := imgWriteBytes d.base (page * Config.pageBytes) bytes } f
  | e => e

/-- The working image at fill completion: written offsets keep their bytes, all others take the base byte
(R25 step 1). -/
def filledWork (d : Sector) (written : List Nat) : Image :=
  written.foldl (fun img k => imgWrite img k (imgRead d.work k)) d.base

/-- The OPEN entry a fill completion makes (R25 steps 1 and 2); without a dirty page its age timer stops
(R33). -/
def filledEntry (d : Sector) (f : Filling) : Entry :=
  let d' := { d with work := filledWork d f.written }
  .opened d' { f.timers with age := if hasDirty d' then f.timers.age else none }

/-- Take the pending expiries of a fill that close-on-fill did not close (R35). With both pending and no dirty page
R35 names no outcome (it gives CLEAN to an idle expiry alone and OPEN to an age expiry alone): the model lets the
idle expiry make the entry CLEAN, a DESIGN CHOICE (log entry 21). -/
def Staging.takePending (f : Filling) (g : Staging) (i : Nat) : Staging :=
  if f.agePending && (g.entry i).unwritten then g.close .age i
  else if f.idlePending then g.close .idle i
  else g

/-- The close a fill completion makes: the close carried (R25 step 3), else the pending expiries (R35). -/
def Staging.closeFilled (f : Filling) (g : Staging) (i : Nat) : Staging :=
  match f.closeOnFill with
  | some c => g.close c i
  | none => g.takePending f i

/-- Whether a page number is the last of a sector (R25). -/
def isLastPage (p : Nat) : Bool := p + 1 == Config.sectorPages

/-! ### Timer expiries (R32, R34) -/

/-- The entry's idle expiry tick, while the timer runs. -/
def Entry.idleExpiry : Entry → Option Tick
  | .filling _ f => f.timers.idle
  | .opened _ t => t.idle
  | _ => none

/-- The entry's age expiry tick, while the timer runs. -/
def Entry.ageExpiry : Entry → Option Tick
  | .filling _ f => f.timers.age
  | .opened _ t => t.age
  | _ => none

/-- An entry's idle expiry (R32): OPEN is closed with cause IDLE, or made CLEAN; FILLING keeps it pending. -/
def Staging.expireIdle (g : Staging) (i : Nat) : Staging :=
  match g.entry i with
  | .filling d f => g.setEntry i (.filling d { f with timers := { f.timers with idle := none }, idlePending := true })
  | .opened _ _ => g.close .idle i
  | _ => g

/-- An entry's age expiry (R34): OPEN is closed with cause AGE; FILLING keeps it pending. -/
def Staging.expireAge (g : Staging) (i : Nat) : Staging :=
  match g.entry i with
  | .filling d f => g.setEntry i (.filling d { f with timers := { f.timers with age := none }, agePending := true })
  | .opened _ _ => g.close .age i
  | _ => g

/-! ### Commits (R41 to R52) -/

/-- Whether a page of an image is FFH throughout (R42). -/
def pageBlank (img : Image) (p : Nat) : Bool :=
  !(img.any fun c => c.1 / Config.pageBytes == p && imgRead img c.1 != 0xFF)

/-- The plan of a commit start (R41). -/
def planOf (d : Sector) (cause : CloseCause) : CommitPlan :=
  if eraseNeeded d || decide (cause = .retry) then .eraseThenProgram else .programOnly

/-- The page list of a plan (R42). -/
def pageList (d : Sector) : CommitPlan → List Nat
  | .eraseThenProgram => (List.range Config.sectorPages).filter fun p => !pageBlank d.work p
  | .programOnly => dirtyPages d

/-- The first step of a plan: ERASE, or PROGRAM of the first listed page; none for a plan without a step
(R41, R43). -/
def firstStep : CommitPlan → List Nat → Option CommitStep
  | .eraseThenProgram, _ => some .erase
  | .programOnly, p :: _ => some (.program p)
  | .programOnly, [] => none

/-- The entry a completed commit leaves: CLEAN, the base image taking the working image (R51). -/
def committedEntry (now : Tick) (d : Sector) : Entry := .clean { d with base := d.work, lastUse := now }

/-- The CLEAN entry of a commit without a step (R43). -/
def uncommittedEntry (now : Tick) (d : Sector) : Entry := .clean { d with lastUse := now }

/-- Drop a page from the list and go to the next listed page, or complete (R45, R46). -/
def nextPage (now : Tick) (d : Sector) (c : CloseCause) (p : Progress) (page : Nat) : Entry :=
  match p.pages.filter (· ≠ page) with
  | [] => committedEntry now d
  | q :: r => .committing d c { p with pages := q :: r, step := .program q, attempts := 1 }

/-- The entry after its step's operation completed without the fail indication (R44, R45). -/
def stepSucceeded (now : Tick) (verify : Bool) (d : Sector) (c : CloseCause) (p : Progress) : OpStep → Entry
  | .erase =>
    match p.pages with
    | [] => committedEntry now d
    | q :: _ => .committing d c { p with step := .program q, attempts := 1 }
  | .program q => if verify then .committing d c { p with step := .verify q } else nextPage now d c p q

/-- The fault kind and page of a step that failed (R47). -/
def stepFault : OpStep → FaultKind × Option Nat
  | .erase => (.eraseFailed, none)
  | .program p => (.programFailed, some p)

/-- The page of a step, for a fault record (R50). -/
def OpStep.page? : OpStep → Option Nat
  | .erase => none
  | .program p => some p

/-- The FAULTED entry of a failed commit: both images kept as they stood (R52). -/
def faultedEntry (now : Tick) (d : Sector) (k : FaultKind) (page : Option Nat) : Entry :=
  .faulted d { kind := k, page := page, tick := now }

/-- The commit claim of the staging controller: for the current step of the COMMITTING entry, or for the
start of the head entry's commit (R38). -/
def Staging.hasClaim (g : Staging) : Bool := g.entries.any Entry.isCommitting || !g.closeQueue.isEmpty

end Sys2Proof.Machine
end

