-- ==== Sys2Proof/Machine/Flash.lean ====
section
/-! DEFINITION. The flash as the part relies on it (chapter 3.1): the profile in use, the functions issued on the link, status bytes, and what PROGRAM and ERASE do to a sector of the flash. -/

namespace Sys2Proof.Machine

/-! ### The profile (Table 11-12, R178) -/

/-- The PROFILE group is valid (R178). -/
def profileValid (p : List Byte) : Bool :=
  let size := (byteAt p 0).toNat
  let ready := (byteAt p 12).toNat % 16
  let value := (byteAt p 12).toNat / 16
  let susp := (byteAt p 13).toNat
  let fail := (byteAt p 14).toNat
  decide (1 ≤ size) && decide (size ≤ 5) && (byteAt p 1 == 3 || byteAt p 1 == 4) && decide ((byteAt p 11).toNat ≤ 4) &&
  decide (ready ≤ 7) && decide (susp ≤ 7) && decide (fail ≤ 7) && decide (ready ≠ susp) && decide (ready ≠ fail) &&
  decide (susp ≠ fail) && decide (value ≤ 1)

/-- A byte of the profile in use, 00H in UNCONFIGURED (R172). -/
def State.profileByte (s : State) (i : Nat) : Byte := byteAt (s.profile.getD []) i

/-- The place of a function's opcode among the nine (Table 11-12). -/
def FlashFn.place : FlashFn → Nat
  | .read => 0 | .program => 1 | .erase => 2 | .arm => 3 | .status => 4
  | .suspend => 5 | .resume => 6 | .sleep => 7 | .wake => 8

/-- The opcode of a function (R58). -/
def State.opcode (s : State) (fn : FlashFn) : Byte := s.profileByte (2 + fn.place)

/-- The wake delay in ticks (Table 11-12). -/
def State.wakeDelay (s : State) : Nat := (s.profileByte 15).toNat

/-! ### Status bytes (R59) -/

/-- What a status byte shows: busy, ready and suspended, or ready and not suspended (R59, R60). -/
inductive Shown where
  | busy | suspended | ready
deriving DecidableEq, Repr

/-- Decode a status byte: a suspended indication with busy is taken as busy (R59). -/
def State.shown (s : State) (status : Byte) : Shown :=
  let position := (s.profileByte 12).toNat % 16
  let value := decide ((s.profileByte 12).toNat / 16 = 1)
  if status.getLsbD position = value then
    if status.getLsbD (s.profileByte 13).toNat then .suspended else .ready
  else .busy

/-- The fail indication of a status byte (R59). -/
def State.failed (s : State) (status : Byte) : Bool := status.getLsbD (s.profileByte 14).toNat

/-! ### Functions on the link (R58) -/

/-- A flash address in the profile's number of bytes, most significant first (R58). -/
def State.addressBytes (s : State) (a : Nat) : List Byte :=
  if s.profileByte 1 = 4 then [byteOf (a / 16777216), byteOf (a / 65536), byteOf (a / 256), byteOf a]
  else [byteOf (a / 65536), byteOf (a / 256), byteOf a]

/-- Put a function on the link. -/
def State.issue (s : State) (x : Spi) : State := { s with link := s.link ++ [x] }

/-- A function that is its opcode alone: ARM, SUSPEND, RESUME, SLEEP, WAKE (Table 3-1). -/
def State.issueBare (s : State) (fn : FlashFn) : State :=
  s.issue { fn := fn, opcode := s.opcode fn, addr := [], dummies := 0, data := [], reads := 0 }

/-- STATUS: the opcode, then one byte read (Table 3-1). -/
def State.issueStatus (s : State) : State :=
  s.issue { fn := .status, opcode := s.opcode .status, addr := [], dummies := 0, data := [], reads := 1 }

/-- READ of `n` bytes at an address, with the profile's dummy bytes (R58). -/
def State.issueRead (s : State) (a n : Nat) : State :=
  s.issue { fn := .read, opcode := s.opcode .read, addr := s.addressBytes a, dummies := (s.profileByte 11).toNat,
            data := [], reads := n }

/-- ARM, then ERASE of a sector (R44, R58). -/
def State.issueErase (s : State) (sector : Nat) : State :=
  (s.issueBare .arm).issue
    { fn := .erase, opcode := s.opcode .erase, addr := s.addressBytes (sector * Config.sectorBytes), dummies := 0,
      data := [], reads := 0 }

/-- The address of the first byte of a page (R58). -/
def pageAddress (sector page : Nat) : Nat := sector * Config.sectorBytes + page * Config.pageBytes

/-- The 256 bytes of a page of an image. -/
def pageBytesOf (img : Image) (page : Nat) : List Byte := imgSpan img (page * Config.pageBytes) Config.pageBytes

/-- ARM, then PROGRAM of a page with the working image's 256 bytes (R45, R58). -/
def State.issueProgram (s : State) (sector page : Nat) (work : Image) : State :=
  (s.issueBare .arm).issue
    { fn := .program, opcode := s.opcode .program, addr := s.addressBytes (pageAddress sector page), dummies := 0,
      data := pageBytesOf work page, reads := 0 }

/-! ### What the flash does with ERASE and PROGRAM (Table 3-1)

The flash is outside the part. These two functions say what Table 3-1 lets the part rely on, for statements
about commit plans: a sector of the flash is an image, ERASE sets every byte to FFH, PROGRAM clears the bits
that are zero in the data. -/

/-- ERASE: every byte of the sector is FFH. -/
def flashErase (_ : Image) : Image := []

/-- PROGRAM of a page: each of the 256 bytes keeps the bits that are one in its data. -/
def flashProgram (work : Image) (img : Image) (page : Nat) : Image :=
  imgWriteBytes img (page * Config.pageBytes)
    (List.zipWith (· &&& ·) (pageBytesOf img page) (pageBytesOf work page))

/-- The flash sector after a commit plan's operations, in order, on a sector that holds `img` (R41, R42). -/
def flashAfterPlan (work img : Image) (plan : CommitPlan) (pages : List Nat) : Image :=
  match plan with
  | .eraseThenProgram => pages.foldl (flashProgram work) (flashErase img)
  | .programOnly => pages.foldl (flashProgram work) img

end Sys2Proof.Machine
end

