-- ==== Sys2Proof/Machine/Sequencer.lean ====
section
/-! DEFINITION. The flash sequencer's operations (chapter 3): miss arrival, the suspension decision, wake requests, grants. -/

namespace Sys2Proof.Machine

/-- Remove the deferred suspension (R68). -/
def State.clearDeferred (s : State) : State := s.withSeq { s.seq with deferred := none }

/-- Set the power function request (R62). -/
def State.setPowerReq (s : State) (r : Option PowerReq) : State := s.withSeq { s.seq with powerReq := r }

/-- The suspension budget of an operation's kind (R68). -/
def FlashPolicy.budget (p : FlashPolicy) : OpStep → Nat
  | .erase => p.eraseBudget
  | .program _ => p.programBudget

/-- Conditions 1 to 3 of R68, and that no soft reset is under way (R80). -/
def State.maySuspend (s : State) (op : FlashOp) : Bool :=
  s.seq.policy.suspendEnable && decide (s.power.st ≠ .emergency) && decide (op.suspCount < s.seq.policy.budget op.step) &&
  !s.control.softReset

/-- Condition 4 of R68: the resume spacing has passed. -/
def State.spacingPassed (s : State) (op : FlashOp) : Bool :=
  match op.lastResume with
  | none => true
  | some t => decide (s.seq.policy.resumeSpacing ≤ elapsed s.now t)

/-- The tick at which the resume spacing will have passed (R68). -/
def State.spacingTick (s : State) (op : FlashOp) : Tick :=
  tickAfter (op.lastResume.getD s.now) s.seq.policy.resumeSpacing

/-- Issue SUSPEND: the count grows, the suspend expiry is set, the state is SUSPENDING, no deferred
suspension stays (R68). -/
def State.suspend (s : State) (op : FlashOp) : State :=
  (s.issueBare .suspend).withSeq
    { s.seq with
      st := .suspending { op with suspCount := op.suspCount + 1 } (tickAfter s.now s.time.timing.suspendLimit.toNat),
      deferred := none }

/-- The suspension decision for a waiting miss while an operation is BUSY (R68). A deferred suspension
already set is not moved. Its four conditions do not ask whether the busy ticks used have reached the time limit:
the tick that brings them there takes the timeout before a deferred suspension due at it, and in a state where the
timeout is due and not taken (no run reaches one) a SUSPEND goes ahead and the limit counts again from RESUMING on.
R69 orders the limit against the completion alone; both are DESIGN CHOICES (log entry 3). -/
def State.decideSuspension (s : State) : State :=
  match s.seq.st with
  | .busy op =>
    if s.seq.misses.isEmpty || !s.maySuspend op then s
    else if s.spacingPassed op then s.suspend op
    else if s.seq.deferred.isSome then s
    else s.withSeq { s.seq with deferred := some (s.spacingTick op) }
  | _ => s

/-- A read miss joins the read-miss queue (R62), or the service list in SUSPENDED (R71); in BUSY the
suspension is decided (Table 3-5). -/
def State.missArrives (s : State) (tag : Nat) : State :=
  match s.seq.st with
  | .suspended op service => s.setSeqSt (.suspended op (service ++ [tag]))
  | _ => (s.withSeq { s.seq with misses := s.seq.misses ++ [tag] }).decideSuspension

/-- A wake's completion reported to the power controller: WAKING becomes RUN (R146). A write held WAKING is
released in the same event by `settle`. -/
def State.wakeReported (s : State) : State := if s.power.st = .waking then s.setPowerSt .run else s

/-- A WAKE request (R78): in ASLEEP, WAKE is issued and the wake delay begins, and a delay of 0 ends in the
event; in any other state the completion is reported at once. For SUSPENDING, SUSPENDED, RESUMING and STALLED, Table 3-6
and R76 say that the request waits: following R78 there is a DESIGN CHOICE (log entry 24). No run makes a request there. -/
def State.requestWake (s : State) : State :=
  if s.seq.st = .asleep then
    let s1 := ((s.issueBare .wake).setPowerReq none).setSeqSt (.waking (tickAfter s.now s.wakeDelay))
    if s.wakeDelay = 0 then (s1.setSeqSt .idle).wakeReported else s1
  else (s.setPowerReq none).wakeReported

/-- The power state becomes WAKING, which requests WAKE (R145). -/
def State.wakePart (s : State) : State := (s.setPowerSt .waking).requestWake

/-! ### Grants (R63 to R65) -/

/-- Whether the commit claim is presented: not once a soft reset is accepted (R38, R57). -/
def State.commitClaim (s : State) : Bool := s.staging.hasClaim && !s.control.softReset

/-- Whether a claim of classes 2 to 4 waits (R63). -/
def State.claimWaiting (s : State) : Bool := !s.seq.misses.isEmpty || !s.seq.fills.isEmpty || s.commitClaim

/-- Whether the IDLE sequencer has an eligible claim and may grant: not while a soft reset is under way
(R63, R80). -/
def State.canGrant (s : State) : Bool :=
  decide (s.seq.st = .idle) && !s.control.softReset && (s.claimWaiting || decide (s.seq.powerReq = some .sleep))

/-- The share count after a grant of class 2 or 3 (R65). -/
def State.countShare (s : State) : State :=
  s.withSeq { s.seq with share := if s.commitClaim then s.seq.share + 1 else 0 }

/-- Set the share count to 0 (R65). -/
def State.zeroShare (s : State) : State := s.withSeq { s.seq with share := 0 }

/-- READ of a miss's line (R58, R64). -/
def State.issueMissRead (s : State) (tag : Nat) : State :=
  match s.readOf tag with
  | some r => s.issueRead r.req.line.toNat Config.lineBytes
  | none => s

/-- A grant of class 2: the READ of the oldest miss (R64). -/
def State.grantMiss (s : State) (tag : Nat) (rest : List Nat) : State :=
  ((s.countShare.issueMissRead tag).withSeq
    { s.countShare.seq with misses := rest, st := .reading (.miss tag) })

/-- The fill requests after the next page of the oldest is granted: the page advances, and the request
leaves when its page 15 is granted (R62). -/
def advanceFill (f : FillReq) (rest : List FillReq) : List FillReq :=
  if isLastPage f.page then rest else { f with page := f.page + 1 } :: rest

/-- A grant of class 3: the next page of the oldest fill request (R64). -/
def State.grantFill (s : State) (f : FillReq) (rest : List FillReq) : State :=
  ((s.countShare.issueRead (pageAddress f.sector f.page) Config.pageBytes).withSeq
    { s.countShare.seq with fills := advanceFill f rest, st := .reading (.fillPage f.sector f.page) })

/-- A new ERASE or PROGRAM operation (Table 3-4). -/
def newOp (step : OpStep) (limit : Half) : FlashOp :=
  { step := step, timeLimit := limit.toNat, busyTicks := 0, suspCount := 0, lastResume := none }

/-- Issue a commit step for the sector of the COMMITTING entry (R64, Table 3-4). -/
def State.issueStep (s : State) (d : Sector) : CommitStep → State
  | .erase => (s.issueErase d.number).setSeqSt (.busy (newOp .erase s.time.timing.eraseLimit))
  | .program p => (s.issueProgram d.number p d.work).setSeqSt (.busy (newOp (.program p) s.time.timing.programLimit))
  | .verify p => (s.issueRead (pageAddress d.number p) Config.pageBytes).setSeqSt (.reading (.verify p))

/-- A commit start (R41): the head leaves the close queue and becomes COMMITTING with plan, page list and
first step, which is issued in the same grant; a plan without a step leaves the entry CLEAN (R43). -/
def State.startCommit (s : State) (i : Nat) (rest : List Nat) : State :=
  match s.staging.entry i with
  | .closed d c =>
    let plan := planOf d c
    let pages := pageList d plan
    match firstStep plan pages with
    | some step =>
      (s.withStaging { s.staging.setEntry i (.committing d c { plan := plan, pages := pages, step := step, attempts := 1 }) with
                       closeQueue := rest }).issueStep d step
    | none => s.withStaging { s.staging.setEntry i (uncommittedEntry s.now d) with closeQueue := rest }
  | _ => s.withStaging { s.staging with closeQueue := rest }

/-- A grant of class 4: the current step of the COMMITTING entry, or the start of the head's commit (R63). -/
def State.grantCommit (s : State) : State :=
  let s := s.zeroShare
  match s.staging.committingIndex with
  | some i =>
    match s.staging.entry i with
    | .committing d _ p => s.issueStep d p.step
    | _ => s
  | none =>
    match s.staging.closeQueue with
    | [] => s
    | i :: rest => s.startCommit i rest

/-- The drain completes in SLEEP (R143). -/
def State.enterSleep (s : State) : State :=
  (s.withPower { s.power with st := .sleep, drainExpiry := none,
                              lastDrain := some { outcome := .entered, tick := s.now } }).raise .sleepEntered

/-- A grant of SLEEP (R77): SLEEP is issued, ASLEEP is entered and reported, and a drain completes (R143). -/
def State.grantSleep (s : State) : State :=
  let s1 := ((s.issueBare .sleep).setPowerReq none).setSeqSt .asleep
  if s.power.st = .drain then s1.enterSleep else s1

/-- The next grant of the IDLE sequencer, by class and commit share (R63, R65). -/
def State.grantNext (s : State) : State :=
  if s.commitClaim && decide (s.seq.policy.commitShare ≤ s.seq.share) then s.grantCommit
  else match s.seq.misses, s.seq.fills with
    | tag :: rest, _ => s.grantMiss tag rest
    | [], f :: rest => s.grantFill f rest
    | [], [] => if s.commitClaim then s.grantCommit else s.grantSleep

end Sys2Proof.Machine
end

