-- ==== Sys2Proof/Machine/Reads.lean ====
section
/-! DEFINITION. The read lane (chapter 4.2): acceptance, the hazard, overlay and staging stages, miss admission, resolving afresh, answers. -/

namespace Sys2Proof.Machine

/-! ### The overlay (R89, R170, R171) -/

/-- Whether a line is one of the overlay's lines, and which (R89). -/
def Overlay.lineIndex (o : Overlay) (line : Addr) : Option Nat :=
  let first := o.line.toNat / Config.lineBytes
  let l := line.toNat / Config.lineBytes
  if first ≤ l ∧ l < first + o.count then some (l - first) else none

/-- `n` reply bytes from place `k`; bytes beyond the reply read as 00H (R89). -/
def replySpan (bytes : List Byte) (k : Nat) : Nat → List Byte
  | 0 => []
  | n + 1 => byteAt bytes k :: replySpan bytes (k + 1) n

/-- The bytes a read takes from the live overlay, if its line is one of the overlay's (R89). -/
def State.overlayBytes (s : State) (r : ReadReq) : Option (List Byte) :=
  match s.control.overlay with
  | none => none
  | some o => (o.lineIndex r.line).map fun i => replySpan o.bytes (i * Config.lineBytes + r.offset) r.length

/-! ### Stages (R87 to R90) -/

/-- The bytes of a read's span in a working image (R27). -/
def spanOf (work : Image) (r : ReadReq) : List Byte := imgSpan work (sectorOffset r.line r.offset) r.length

/-- Whether the unanswered write in progress is to a line (R88). -/
def State.hazard (s : State) (line : Addr) : Bool :=
  match s.port.write with
  | none => false
  | some w => w.req.line == line

/-- Refuse a read: it becomes RESOLVED with its ERR result (R86). -/
def State.refuseRead (s : State) (tag : Nat) (reason : RefusalReason) : State :=
  s.setStage tag (.resolved (.err reason))

/-- A miss joins the sequencer's queue and enters stage MISS (R90). -/
def State.joinMiss (s : State) (tag : Nat) : State := (s.setStage tag .miss).missArrives tag

/-- Miss admission, by power state and sequencer state (R90). -/
def State.routeMiss (s : State) (tag : Nat) : State :=
  if s.seq.st = .stalled then s.refuseRead tag .flashUnavailable
  else match s.power.st with
    | .sleep =>
      if s.seq.st = .asleep then
        if s.power.policy.refuseInSleep then s.refuseRead tag .deniedPower else (s.joinMiss tag).wakePart
      else s.joinMiss tag
    | .safe => if s.seq.st = .asleep then s.refuseRead tag .deniedPower else s.joinMiss tag
    | .starting => s.joinMiss tag
    | .unconfigured => s.refuseRead tag .unconfigured
    | .run => s.joinMiss tag
    | .drain => s.joinMiss tag
    | .waking => s.joinMiss tag
    | .emergency => s.joinMiss tag

/-- Take a read's bytes from the entry of its sector: a hit sets the last-use tick (R27). -/
def State.hitRead (s : State) (tag i : Nat) (d : Sector) (r : ReadReq) : State :=
  (s.withStaging (s.staging.touch s.now i)).setStage tag (.resolved (.ok (spanOf d.work r) (.entry i)))

/-- Resolve a read against the entry of its sector: a hit, or a wait for the fill (R27, R28); `miss` is what
a sector without an entry leads to. -/
def State.resolveEntry (s : State) (tag : Nat) (r : ReadReq) (miss : State) : State :=
  match s.staging.find (sectorOf r.line) with
  | none => miss
  | some i =>
    match s.staging.entry i with
    | .free => miss
    | .filling _ _ => s.setStage tag .waitingFill
    | .opened d _ => s.hitRead tag i d r
    | .closed d _ => s.hitRead tag i d r
    | .committing d _ _ => s.hitRead tag i d r
    | .clean d => s.hitRead tag i d r
    | .faulted d _ => s.hitRead tag i d r

/-- From the overlay stage on (R87 to R90). In UNCONFIGURED a read whose line is no line of the overlay is refused
there (R83). -/
def State.resolveOverlay (s : State) (tag : Nat) : State :=
  match s.readOf tag with
  | none => s
  | some r =>
    match s.overlayBytes r.req with
    | some bs => s.setStage tag (.resolved (.ok bs .overlay))
    | none =>
      if s.power.st = .unconfigured then s.refuseRead tag .unconfigured
      else s.resolveEntry tag r.req (s.routeMiss tag)

/-- From the hazard stage on (R88). -/
def State.resolveHazard (s : State) (tag : Nat) : State :=
  match s.readOf tag with
  | none => s
  | some r => if s.hazard r.req.line then s.setStage tag .waitingHazard else s.resolveOverlay tag

/-- The READ of a miss has completed: the read is resolved again against the state as it stands (R91). -/
def State.missComplete (s : State) (tag : Nat) (bytes : List Byte) : State :=
  match s.readOf tag with
  | none => s
  | some r =>
    if s.hazard r.req.line then s.setStage tag .waitingHazard
    else match s.overlayBytes r.req with
      | some bs => s.setStage tag (.resolved (.ok bs .overlay))
      | none =>
        s.resolveEntry tag r.req
          (s.setStage tag (.resolved (.ok ((bytes.drop r.req.offset).take r.req.length) .flash)))

/-! ### Results that change (R92) -/

/-- A held result brought up to date by a write answered OK to its line (R92). -/
def updateResult (w : WriteReq) (r : Read) : Read :=
  match r.stage with
  | .resolved (.ok bs src) =>
    if r.req.line = w.line then
      { r with stage := .resolved (.ok (patchBytes r.req.offset bs w.offset w.bytes) src) }
    else r
  | _ => r

/-- Whether a read holds a result taken from the overlay (R92). -/
def Read.fromOverlay (r : Read) : Bool :=
  match r.stage with
  | .resolved (.ok _ .overlay) => true
  | _ => false

/-- Whether a read holds a result taken from entry `i` of a sector (R92). -/
def Read.fromEntry (i sector : Nat) (r : Read) : Bool :=
  match r.stage with
  | .resolved (.ok _ (.entry n)) => n == i && sectorOf r.req.line == sector
  | _ => false

/-- Resolve afresh, from the hazard stage, the reads a test picks; each keeps its decision and place (R92). Of
several reads the older one goes first, which decides their order in the read-miss queue: the spec gives no order,
and this one is the model's choice (log entry 22). -/
def State.resolveAfresh (s : State) (p : Read → Bool) : State :=
  ((s.port.reads.filter p).map (·.tag)).foldl State.resolveHazard s

/-- The overlay ends: its record is removed, and every read holding a result from it is resolved afresh
(R171). -/
def State.endOverlay (s : State) : State :=
  match s.control.overlay with
  | none => s
  | some _ => (s.withControl { s.control with overlay := none }).resolveAfresh Read.fromOverlay

/-! ### Answers (R86, R93, R102) -/

/-- An ERR answer replaces the last refusal record and raises ACCESS_REFUSED (R102). -/
def State.recordRefusal (s : State) (reason : RefusalReason) (access : Access) (line : Addr) (d : Option Decision) : State :=
  (s.withPort { s.port with
    lastRefusal := some { reason := reason, access := access, line := line, rule := d.map (·.rule), tick := s.now } }).raise
    .accessRefused

/-- The capture record of a read (R121, R122). -/
def readRecord (now : Tick) (r : Read) (d : Decision) (o : CaptureOutcome) : CaptureRecord :=
  { number := 0, tick := now, access := .read, line := r.req.line, offset := r.req.offset, length := r.req.length,
    rule := d.rule, outcome := o, data := none }

/-- Put a read's capture record into the queue its decision names (R122). -/
def State.captureRead (s : State) (r : Read) (o : CaptureOutcome) : State :=
  match r.decision with
  | none => s
  | some d =>
    match d.capture with
    | none => s
    | some q => s.putRecord q false (readRecord s.now r d o)

/-- Give a read its answer (R93). -/
def State.answerRead (s : State) (r : Read) (res : ReadResult) : State :=
  match res with
  | .ok bs _ =>
    (s.giveAnswer { access := .read, line := r.req.line, offset := r.req.offset, length := r.req.length,
                    result := .ok bs }).captureRead r .served
  | .err reason =>
    ((s.giveAnswer { access := .read, line := r.req.line, offset := r.req.offset, length := r.req.length,
                     result := .err reason }).captureRead r (.refused reason)).recordRefusal
      reason .read r.req.line r.decision

/-- Whether the oldest read is RESOLVED (R86). -/
def State.canAnswer (s : State) : Bool :=
  match s.port.reads with
  | { stage := .resolved _, .. } :: _ => true
  | _ => false

/-- Answer the oldest read if it is RESOLVED: it leaves the queue (R86). -/
def State.answerOldest (s : State) : State :=
  match s.port.reads with
  | r :: rest =>
    match r.stage with
    | .resolved res => (s.setReads rest).answerRead r res
    | _ => s
  | [] => s

/-! ### Acceptance (R82 to R85, R87) -/

/-- A tag no read of the queue uses: the lowest (log entry 18). -/
def freshTag (reads : List Read) : Nat :=
  ((List.range Config.readLaneSize).find? fun t => !(reads.any fun r => r.tag == t)).getD Config.readLaneSize

/-- Put a read at the tail of the read queue. -/
def State.pushRead (s : State) (r : Read) : State := s.setReads (s.port.reads ++ [r])

/-- The span of a request crosses its line's boundary (R82). -/
def crossesLine (offset length : Nat) : Bool := decide (Config.lineBytes < offset + length)

/-- The last byte of a request lies at or beyond the window size (R82). -/
def State.pastWindow (s : State) (line : Addr) (offset length : Nat) : Bool :=
  s.beyondWindow (line.toNat + offset + length - 1)

/-- The stages of a read that passed the span and window check (R87). -/
def State.decideRead (s : State) (tag : Nat) (req : ReadReq) : State :=
  let d := s.decisionFor .read req.line
  let s1 := s.noteUrgent d
  if d.action = .deny then
    s1.pushRead { tag := tag, req := req, decision := some d, stage := .resolved (.err .deniedRule) }
  else (s1.pushRead { tag := tag, req := req, decision := some d, stage := .resolving }).resolveHazard tag

/-- Accept a read: the span and window check, then its stages (R82, R83, R87). In UNCONFIGURED there is no window
and no decision; the read waits on a hazard as any other (R88, R180), and is then served from the overlay or
refused (R83). -/
def State.acceptRead (s : State) (req : ReadReq) : State :=
  let tag := freshTag s.port.reads
  let push (stage : ReadStage) : State := s.pushRead { tag := tag, req := req, decision := none, stage := stage }
  if crossesLine req.offset req.length then push (.resolved (.err .badSpan))
  else if s.power.st = .unconfigured then (push .resolving).resolveHazard tag
  else if s.pastWindow req.line req.offset req.length then push (.resolved (.err .badSpan))
  else s.decideRead tag req

/-- Whether the read lane accepts the next read presented (R84, R85). -/
def State.canAcceptRead (s : State) : Bool :=
  s.port.lanesOpen && decide (s.port.reads.length < Config.readLaneSize) && !s.port.waitReads.isEmpty

/-- Accept the next read the interconnect presents (R84). -/
def State.acceptNextRead (s : State) : State :=
  match s.port.waitReads with
  | [] => s
  | req :: rest => (s.withPort { s.port with waitReads := rest }).acceptRead req

/-- The oldest read is answered, and the waiting read its answer makes room for is accepted (R86). -/
def State.answerInTurn (s : State) : State :=
  let s := s.answerOldest
  if s.canAcceptRead then s.acceptNextRead else s

/-- A read is presented at the port (R82, R84); its line is the line its address falls in (log entry 16). -/
def State.presentRead (s : State) (line : Addr) (offset length : Nat) : State :=
  s.withPort { s.port with
    waitReads := s.port.waitReads ++ [{ line := lineOf line, offset := offset, length := length }] }

/-- Whether a read waits on a hazard that has ended (R88). -/
def State.hazardOver (s : State) (r : Read) : Bool :=
  decide (r.stage = .waitingHazard) && !s.hazard r.req.line

/-- Whether a hazard wait has ended (R88). -/
def State.canReleaseHazard (s : State) : Bool := s.port.reads.any s.hazardOver

/-- Reads whose hazard has ended continue from the overlay stage (R88), the older one first (log entry 22). -/
def State.releaseHazards (s : State) : State :=
  ((s.port.reads.filter s.hazardOver).map (·.tag)).foldl State.resolveOverlay s

/-- Reads waiting for the fill of an entry become RESOLVED from its working image, each setting the last-use
tick (R25 step 4, R28). -/
def State.serveFilled (s : State) (i : Nat) (d : Sector) : State :=
  ((s.port.reads.filter fun r => decide (r.stage = .waitingFill) && sectorOf r.req.line == d.number)).foldl
    (fun s r => s.hitRead r.tag i d r.req) s

/-- Refuse the reads of tags (R75, R150). -/
def State.refuseReads (s : State) (tags : List Nat) (reason : RefusalReason) : State :=
  tags.foldl (fun s t => s.refuseRead t reason) s

/-- Refuse every miss of the read-miss queue, which empties (R75, R150). -/
def State.refuseMisses (s : State) (reason : RefusalReason) : State :=
  (s.refuseReads s.seq.misses reason).withSeq { s.seq with misses := [] }

end Sys2Proof.Machine
end

