-- ==== Sys2Proof/Machine/Writes.lean ====
section
/-! DEFINITION. The write lane (chapter 4.3): stages, holds, answers OK and ERR. A write carries its decision once it has one. -/

namespace Sys2Proof.Machine

/-! ### Answers -/

/-- The capture record of a write (R121, R123). -/
def writeRecord (now : Tick) (w : WriteReq) (d : Decision) (o : CaptureOutcome) (data : Option (List Byte)) :
    CaptureRecord :=
  { number := 0, tick := now, access := .write, line := w.line, offset := w.offset, length := w.bytes.length,
    rule := d.rule, outcome := o, data := data }

/-- Put a write's record into the queue its decision names: an absorbed write's into the place reserved for
it in a STRICT queue (R123, R126). -/
def State.captureWrite (s : State) (w : WriteInProgress) (useReserved : Bool) (o : CaptureOutcome)
    (data : List Byte) : State :=
  match w.decision with
  | none => s
  | some d =>
    match d.capture with
    | none => s
    | some q => s.putRecord q useReserved (writeRecord s.now w.req d o (if d.captureData && useReserved then some data else none))

/-- The latch copy of a write decided LATCH (R136). -/
def State.latchWrite (s : State) (w : WriteInProgress) (data : List Byte) : State :=
  match w.decision with
  | some { action := .latch n, rule := rule, .. } =>
    s.latchCopy n { line := w.req.line, offset := w.req.offset, data := data, tick := s.now, rule := rule.number }
  | _ => s

/-- Bring held read results up to date with a write answered OK (R92). -/
def State.updateResults (s : State) (w : WriteReq) : State := s.setReads (s.port.reads.map (updateResult w))

/-- An ordinary write answered OK to one of the overlay's lines ends the overlay (R171). -/
def State.overlayWritten (s : State) (line : Addr) : State :=
  match s.control.overlay with
  | none => s
  | some o => if (o.lineIndex line).isSome then s.endOverlay else s

/-- The answer a write gets. -/
def writeAnswer (w : WriteReq) (r : AnswerResult) : Answer :=
  { access := .write, line := w.line, offset := w.offset, length := w.bytes.length, result := r }

/-- Answer a write OK in the event of its merge into an image (R100): the lane empties, the record is put,
the latch copy made, held results are brought up to date, an overlay it wrote over ends. -/
def State.answerWrite (s : State) (w : WriteInProgress) (work : Image) : State :=
  let data := imgSpan work (sectorOffset w.req.line w.req.offset) w.req.bytes.length
  let s := (s.setWrite none).giveAnswer (writeAnswer w.req (.ok []))
  let s := (s.captureWrite w true .absorbed data).latchWrite w data
  (s.updateResults w.req).overlayWritten w.req.line

/-- The reservation of a write's decision is released (R127). -/
def State.releaseFor (s : State) (d : Option Decision) : State :=
  match d with
  | some { capture := some q, .. } => s.release q
  | _ => s

/-- Answer a write ERR (R101): its reservation is released, its record put, the last refusal record
replaced; no field of any entry changes. -/
def State.refuseWrite (s : State) (w : WriteInProgress) (reason : RefusalReason) : State :=
  let s := (s.setWrite none).giveAnswer (writeAnswer w.req (.err reason))
  let s := (s.releaseFor w.decision).captureWrite w false (.refused reason) []
  s.recordRefusal reason .write w.req.line w.decision

/-- Hold a write for a cause (R98). -/
def State.holdWrite (s : State) (w : WriteInProgress) (c : HoldCause) : State :=
  s.setWrite (some { w with stage := .held c })

/-! ### The staging stage (chapter 1.6 and 1.7) -/

/-- The close that follows a merge in DRAIN and EMERGENCY (R17). -/
def State.closeMerged (s : State) (i : Nat) : State :=
  match s.power.st with
  | .drain => s.withStaging (s.staging.close .drain i)
  | .emergency => s.withStaging (s.staging.close .emergency i)
  | _ => s

/-- The merged entry takes its place, the entry is closed where R17 says so, and the write is answered OK. -/
def State.landWrite (s : State) (w : WriteInProgress) (i : Nat) (e : Entry) : State :=
  ((s.withStaging (s.staging.setEntry i e)).closeMerged i).answerWrite w ((e.data?.map (·.work)).getD [])

/-- The offset of a write within its sector (chapter 1.6). -/
def WriteReq.sectorOff (w : WriteReq) : Nat := sectorOffset w.line w.offset

/-- Allocate an entry to a write, merge it, request the fill, answer OK (R18, R19, R22). -/
def State.allocateWrite (s : State) (w : WriteInProgress) (i : Nat) : State :=
  let n := sectorOf w.req.line
  let s := s.withSeq { s.seq with fills := s.seq.fills ++ [{ sector := n, page := 0 }] }
  s.landWrite w i (allocatedEntry s.now s.time.timing n w.req.sectorOff w.req.bytes)

/-- A write that cannot allocate is held NO_ENTRY; when it is first found so, the oldest OPEN entry that
holds unwritten data is closed with cause PRESSURE (R20). -/
def State.holdNoEntry (s : State) (w : WriteInProgress) : State :=
  let pressed :=
    match w.stage with
    | .held .noEntry => s
    | _ =>
      match s.staging.pressureEntry s.now with
      | some i => s.withStaging (s.staging.close .pressure i)
      | none => s
  pressed.holdWrite w .noEntry

/-- The staging stage of a write (Table 1-4). -/
def State.stageWrite (s : State) (w : WriteInProgress) : State :=
  match s.staging.find (sectorOf w.req.line) with
  | none =>
    match s.staging.place s.now with
    | some i => s.allocateWrite w i
    | none => s.holdNoEntry w
  | some i =>
    match mergeEntry s.now s.time.timing w.req.sectorOff w.req.bytes (s.staging.entry i) with
    | some e => s.landWrite w i e
    | none =>
      if (s.staging.entry i).isFaulted then s.refuseWrite w .deniedMedia else s.holdWrite w .committing

/-! ### The stages before it (R95 to R97) -/

/-- The strict capture reservation (R126). -/
def State.reserveStage (s : State) (w : WriteInProgress) : State :=
  match w.decision with
  | some { capture := some q, .. } =>
    if (s.capture.queue q).mode = .strict then
      if (s.capture.queue q).hasRoom (Config.queueCapacity q) then (s.reserve q).stageWrite w
      else s.holdWrite w .captureSpace
    else s.stageWrite w
  | _ => s.stageWrite w

/-- Whether the sector of a line has a FAULTED entry (R10). -/
def State.sectorFaulted (s : State) (line : Addr) : Bool :=
  match s.staging.entryOf (sectorOf line) with
  | some e => e.isFaulted
  | none => false

/-- The fence and rule stages and the faulted-sector check (R97, R105, R10). -/
def State.fenceStage (s : State) (w : WriteInProgress) : State :=
  let d := s.decisionFor .write w.req.line
  let w := { w with decision := some d }
  let s := s.noteUrgent d
  if s.inFence w.req.line then s.refuseWrite w .deniedFence
  else if d.action = .deny then s.refuseWrite w .deniedRule
  else if s.sectorFaulted w.req.line then s.refuseWrite w .deniedMedia
  else s.reserveStage w

/-- Withdraw an outstanding sleep request (R143). -/
def State.withdrawSleep (s : State) : State :=
  if s.seq.powerReq = some .sleep then s.setPowerReq none else s

/-- Abandon a drain to a power state, with a reason (R144, R148). -/
def State.abandonDrain (s : State) (reason : DrainReason) : State :=
  ((s.withdrawSleep).withPower
    { s.power with st := .run, drainExpiry := none,
                   lastDrain := some { outcome := .failed reason, tick := s.now } }).raise .sleepFailed

/-- The power-state check of an ordinary write (R96). -/
def State.powerStage (s : State) (w : WriteInProgress) : State :=
  match s.power.st with
  | .run => s.fenceStage w
  | .drain =>
    if s.power.policy.drainAbort then (s.abandonDrain .activity).fenceStage w
    else s.withdrawSleep.fenceStage w
  | .sleep =>
    if s.power.policy.refuseInSleep then s.refuseWrite w .deniedPower else s.wakePart.holdWrite w .waking
  | .waking => s.holdWrite w .waking
  | .starting => s.holdWrite w .waking
  | .emergency => s.refuseWrite w .deniedPower
  | .safe => s.refuseWrite w .deniedPower
  | .unconfigured => s.refuseWrite w .unconfigured

/-! ### Releases (R98) -/

/-- Whether the hold of the write in progress has ended: WAKING when the power state is RUN (R146), COMMITTING
when its sector's entry is no longer COMMITTING (R16), NO_ENTRY when a place is FREE or CLEAN (R21). -/
def State.canReleaseWrite (s : State) : Bool :=
  match s.port.write with
  | none => false
  | some w =>
    match w.stage with
    | .held .waking => decide (s.power.st = .run)
    | .held .committing =>
      match s.staging.entryOf (sectorOf w.req.line) with
      | some e => !e.isCommitting
      | none => true
    | .held .noEntry => (s.staging.place s.now).isSome
    | _ => false

/-- A held write whose hold has ended continues from the next stage (R95, R98). -/
def State.releaseWrite (s : State) : State :=
  match s.port.write with
  | none => s
  | some w =>
    match w.stage with
    | .held .waking => s.fenceStage w
    | .held .committing => s.stageWrite w
    | .held .noEntry => s.stageWrite w
    | _ => s

end Sys2Proof.Machine
end

