-- ==== Sys2Proof/Machine/Commits.lean ====
section
/-! DEFINITION. What the ends of flash operations do: fills, commit steps, verify comparisons, retries, faults, timeouts, suspension service (chapters 1.8, 2.5, 2.6, 3.3 to 3.6). -/

namespace Sys2Proof.Machine

/-! ### Retries and faults (R47 to R52) -/

/-- The retry counter grows by one, saturating at 65535; reaching 32768 raises RETRY_HALF (R49). -/
def State.countRetry (s : State) : State :=
  if s.staging.retry < 65535 then
    let s1 := s.withStaging { s.staging with retry := s.staging.retry + 1 }
    if s1.staging.retry = 32768 then s1.raise .retryHalf else s1
  else s

/-- A commit ends in failure: the entry becomes FAULTED and MEDIA_FAULT is raised (R52). A write held on it
is refused in the same event by `settle` (R16). -/
def State.faultCommit (s : State) (i : Nat) (d : Sector) (k : FaultKind) (page : Option Nat) : State :=
  (s.withStaging (s.staging.setEntry i (faultedEntry s.now d k page))).raise .mediaFault

/-- A second attempt is ordered: attempts used 2, the step as given, the retry counter counted (R47, R48). -/
def State.retryStep (s : State) (i : Nat) (d : Sector) (c : CloseCause) (p : Progress) (step : CommitStep) : State :=
  (s.withStaging (s.staging.setEntry i (.committing d c { p with step := step, attempts := 2 }))).countRetry

/-- The commit step an operation serves. -/
def OpStep.commitStep : OpStep → CommitStep
  | .erase => .erase
  | .program p => .program p

/-- The completion of an ERASE or PROGRAM reported to the staging controller, with or without the fail
indication (R44, R45, R47); after a soft reset is accepted it changes no entry (R57). -/
def State.stepReported (s : State) (op : OpStep) (fail : Bool) : State :=
  if s.control.softReset then s
  else match s.staging.committingIndex with
    | none => s
    | some i =>
      match s.staging.entry i with
      | .committing d c p =>
        if fail then
          if p.attempts = 1 then s.retryStep i d c p op.commitStep
          else s.faultCommit i d (stepFault op).1 (stepFault op).2
        else s.withStaging (s.staging.setEntry i (stepSucceeded s.now s.seq.policy.verifyEnable d c p op))
      | _ => s

/-- A verify read compared with the working page (R46, R48); not acted on after a soft reset is accepted
(R57). -/
def State.verifyReported (s : State) (page : Nat) (bytes : List Byte) : State :=
  if s.control.softReset then s
  else match s.staging.committingIndex with
    | none => s
    | some i =>
      match s.staging.entry i with
      | .committing d c p =>
        if bytes = pageBytesOf d.work page then s.withStaging (s.staging.setEntry i (nextPage s.now d c p page))
        else if p.attempts = 1 then s.retryStep i d c p (.program page)
        else s.faultCommit i d .verifyMismatch (some page)
      | _ => s

/-- A flash timeout reported for a step: the commit ends FAULTED with kind FLASH_TIMEOUT (R50), or nothing
happens to it after a soft reset is accepted (R57). -/
def State.timeoutReported (s : State) (op : OpStep) : State :=
  if s.control.softReset then s
  else match s.staging.committingIndex with
    | none => s
    | some i =>
      match s.staging.entry i with
      | .committing d _ _ => s.faultCommit i d .flashTimeout op.page?
      | _ => s

/-! ### Fills (R23, R25, R35) -/

/-- The sixteenth page of a fill has been stored: the fill completes in one event (R25), with pending
expiries taken (R35). -/
def State.completeFill (s : State) (i : Nat) : State :=
  match s.staging.entry i with
  | .filling d f =>
    let work := filledWork d f.written
    let opened := s.withStaging (s.staging.setEntry i (filledEntry d f))
    let closed := opened.withStaging (opened.staging.closeFilled f i)
    closed.serveFilled i { d with work := work }
  | _ => s

/-- A fill page read has completed (R23, R25). It is dropped when no FILLING entry of the sector is left or
a soft reset has abandoned the fill (R26). -/
def State.fillReported (s : State) (sector page : Nat) (bytes : List Byte) : State :=
  if s.control.softReset then s
  else match s.staging.find sector with
    | none => s
    | some i =>
      let s1 := s.withStaging (s.staging.setEntry i (storePage page bytes (s.staging.entry i)))
      if isLastPage page then s1.completeFill i else s1

/-! ### Ends of operations -/

/-- The sequencer becomes IDLE at an operation's end, with no deferred suspension (R67). -/
def State.endOperation (s : State) : State := s.withSeq { s.seq with st := .idle, deferred := none }

/-- An ERASE or PROGRAM completes, with the fail indication of the status read (R67). -/
def State.completeOperation (s : State) (op : FlashOp) (fail : Bool) : State :=
  s.endOperation.stepReported op.step fail

/-- A flash timeout (R74): the operation is removed, the step reported, FLASH_STALL raised, STALLED entered,
and every queued miss refused FLASH_UNAVAILABLE (R75). -/
def State.timeoutOperation (s : State) (op : FlashOp) : State :=
  (((s.withSeq { s.seq with st := .stalled, deferred := none }).timeoutReported op.step).raise .flashStall).refuseMisses
    .flashUnavailable

/-- Issue RESUME: the last resume tick is now, the state RESUMING (R71). -/
def State.resume (s : State) (op : FlashOp) : State :=
  (s.issueBare .resume).setSeqSt (.resuming { op with lastResume := some s.now })

/-- Serve the first miss of a service list, or RESUME when it is empty (R71). -/
def State.serveNext (s : State) (op : FlashOp) (service : List Nat) : State :=
  match service with
  | [] => s.resume op
  | tag :: _ => (s.issueMissRead tag).setSeqSt (.suspended op service)

/-- Suspension complete: the service list takes every waiting miss, and its first READ is issued (R70). -/
def State.suspensionDone (s : State) (op : FlashOp) : State :=
  (s.withSeq { s.seq with misses := [] }).serveNext op s.seq.misses

/-- A READ completes with its bytes (R66, R71): to the read lane, to the fill, or to the comparison. The
bytes are as many as the READ asked for; any other number is no completion (log entry 16). -/
def State.completeRead (s : State) (bytes : List Byte) : State :=
  match s.seq.st with
  | .reading (.miss tag) => if bytes.length = Config.lineBytes then (s.setSeqSt .idle).missComplete tag bytes else s
  | .reading (.fillPage sector page) =>
    if bytes.length = Config.pageBytes then (s.setSeqSt .idle).fillReported sector page bytes else s
  | .reading (.verify page) =>
    if bytes.length = Config.pageBytes then (s.setSeqSt .idle).verifyReported page bytes else s
  | .suspended op (tag :: rest) =>
    if bytes.length = Config.lineBytes then (s.missComplete tag bytes).serveNext op rest else s
  | _ => s

/-- A status read of the polling in BUSY, SUSPENDING and RESUMING acts on what the status byte shows (R60): in
BUSY, ready and not suspended completes the operation (R67); in SUSPENDING, that completes it too, and ready
and suspended completes the suspension (R70); in RESUMING, ready and not suspended completes the operation,
and busy makes the state BUSY, with the suspension decision for a waiting miss (R72). -/
def State.pollStatus (s : State) (status : Byte) : State :=
  match s.seq.st with
  | .busy op =>
    match s.shown status with
    | .ready => s.issueStatus.completeOperation op (s.failed status)
    | .suspended => s.issueStatus
    | .busy => s.issueStatus
  | .suspending op _ =>
    match s.shown status with
    | .ready => s.issueStatus.completeOperation op (s.failed status)
    | .suspended => s.issueStatus.suspensionDone op
    | .busy => s.issueStatus
  | .resuming op =>
    match s.shown status with
    | .ready => s.issueStatus.completeOperation op (s.failed status)
    | .suspended => s.issueStatus
    | .busy => (s.issueStatus.setSeqSt (.busy op)).decideSuspension
  | _ => s

/-- The suspend limit expires: one further status read decides between completion and a timeout (R70). -/
def State.suspendLimit (s : State) (status : Byte) : State :=
  match s.seq.st with
  | .suspending op expiry =>
    if expiry = s.now then
      let s := s.issueStatus
      if s.shown status = .ready then s.completeOperation op (s.failed status) else s.timeoutOperation op
    else s
  | _ => s

/-- The operation whose busy ticks count, and whose time limit can run out: in BUSY and RESUMING (R69). A limit
reached and not taken before a SUSPEND waits for RESUMING (log entry 3). -/
def SeqState.counting? : SeqState → Option FlashOp
  | .busy op => some op
  | .resuming op => some op
  | _ => none

/-- Whether the busy ticks used have reached the time limit (R69). -/
def State.timeLimitDue (s : State) : Bool :=
  match s.seq.st.counting? with
  | some op => decide (op.timeLimit ≤ op.busyTicks)
  | none => false

/-- The time limit runs out: a flash timeout of the operation (R69). -/
def State.timeLimit (s : State) : State :=
  match s.seq.st.counting? with
  | some op => if op.timeLimit ≤ op.busyTicks then s.timeoutOperation op else s
  | none => s

/-- One more busy tick, up to the time limit (R69, Table 3-3). -/
def FlashOp.grow (op : FlashOp) : FlashOp :=
  if op.busyTicks < op.timeLimit then { op with busyTicks := op.busyTicks + 1 } else op

/-- The busy ticks used grow at a tick in BUSY and RESUMING, and not in SUSPENDING or SUSPENDED (R69). -/
def SeqState.grow : SeqState → SeqState
  | .busy op => .busy op.grow
  | .resuming op => .resuming op.grow
  | x => x

/-- The deferred suspension's tick is reached: it becomes absent, and with a miss waiting in BUSY the
decision is made again (R68). -/
def State.deferredDue (s : State) : State :=
  if timerDue s.now s.seq.deferred then s.clearDeferred.decideSuspension else s

end Sys2Proof.Machine
end

