-- ==== Sys2Proof/Machine/PowerControl.lean ====
section
/-! DEFINITION. The power controller's transitions (chapter 7): drain completion, EMERGENCY, SAFE, power warning. -/

namespace Sys2Proof.Machine

/-! ### Drain (R142, R143, R144) -/

/-- Whether an ordinary write is in progress; a control record does not count (R143). -/
def State.ordinaryWrite (s : State) : Bool :=
  match s.port.write with
  | some { stage := .held _, .. } => true
  | some { stage := .taking, .. } => true
  | _ => false

/-- The drain completion condition (R143). -/
def State.drainCondition (s : State) : Bool :=
  !s.unwritten && decide (s.seq.st = .idle) && s.seq.misses.isEmpty && !s.ordinaryWrite

/-- Whether the condition is to be acted on: in DRAIN, with no sleep request outstanding (R143), and not
once a soft reset has ended the drain (R154). -/
def State.drainDue (s : State) : Bool :=
  decide (s.power.st = .drain) && decide (s.seq.powerReq ≠ some .sleep) && s.drainCondition && !s.control.softReset

/-- The drain completion condition is found to hold (R143): with flash-deep-sleep off the drain completes in
SLEEP; with it on the flash SLEEP is requested. -/
def State.completeDrain (s : State) : State :=
  if s.power.policy.deepSleep then s.setPowerReq (some .sleep) else s.enterSleep

/-- An outstanding sleep request is withdrawn when the part gains unwritten data in DRAIN (R143). -/
def State.sleepSpoiled (s : State) : Bool :=
  decide (s.power.st = .drain) && decide (s.seq.powerReq = some .sleep) && s.unwritten

/-- The drain timer's expiry (R144): reason FAULTED_DATA while a FAULTED entry exists, else TIMEOUT. -/
def State.drainExpired (s : State) : State :=
  if s.power.st = .drain ∧ timerDue s.now s.power.drainExpiry then
    s.abandonDrain (if s.staging.entries.any Entry.isFaulted then .faultedData else .timeout)
  else s

/-! ### EMERGENCY and SAFE (R148 to R151) -/

/-- Whether an entry holds back SAFE: FILLING, CLOSED, COMMITTING, or OPEN with a dirty page (R149). -/
def Entry.holdsSafe : Entry → Bool
  | .filling _ _ => true
  | .closed _ _ => true
  | .committing _ _ _ => true
  | .opened d _ => hasDirty d
  | .free => false
  | .clean _ => false
  | .faulted _ _ => false

/-- Whether an ERASE or PROGRAM is in flight: BUSY, SUSPENDING, SUSPENDED or RESUMING (R149). -/
def SeqState.inFlight : SeqState → Bool
  | .busy _ => true
  | .suspending _ _ => true
  | .suspended _ _ => true
  | .resuming _ => true
  | _ => false

/-- The SAFE condition (R149). -/
def State.safeCondition (s : State) : Bool := !s.staging.entries.any Entry.holdsSafe && !s.seq.st.inFlight

/-- Whether the SAFE condition is to be acted on (R149). -/
def State.safeDue (s : State) : Bool := decide (s.power.st = .emergency) && s.safeCondition

/-- The power state becomes SAFE (R149); with the flash asleep every waiting miss is refused (R150). -/
def State.enterSafe (s : State) : State :=
  let s1 := (s.setPowerSt .safe).raise .safeReached
  if s.seq.st = .asleep then s1.refuseMisses .deniedPower else s1

/-- A write held in the lane is refused DENIED_POWER, whatever its hold cause (R149). -/
def State.refuseHeld (s : State) : State :=
  match s.port.write with
  | some w =>
    match w.stage with
    | .held _ => s.refuseWrite w .deniedPower
    | _ => s
  | none => s

/-- Entry to EMERGENCY (R149): every entry is closed, a held write refused. The SAFE condition is evaluated
in the same event by `settle`. -/
def State.enterEmergency (s : State) : State :=
  ((s.setPowerSt .emergency).withStaging (s.staging.closeAll .emergency)).refuseHeld

/-- A PWRWARN assertion is taken, by power state (R148). -/
def State.takeAssertion (s : State) : State :=
  match s.power.st with
  | .starting => s
  | .unconfigured => s.raise .powerWarning
  | .run => (s.raise .powerWarning).enterEmergency
  | .waking => (s.raise .powerWarning).enterEmergency
  | .drain => ((s.raise .powerWarning).abandonDrain .power).enterEmergency
  | .sleep => (s.raise .powerWarning).enterSafe
  | .emergency => s.raise .powerWarning
  | .safe => s.raise .powerWarning

/-- Record the PWRWARN level (R148). -/
def State.setPwrwarn (s : State) (level : Bool) : State := s.withPower { s.power with pwrwarn := level }

/-- The PWRWARN line changes from low to high (R148). -/
def State.pwrwarnHigh (s : State) : State := if s.power.pwrwarn then s else (s.setPwrwarn true).takeAssertion

/-- The PWRWARN line changes from high to low (R151). -/
def State.pwrwarnLow (s : State) : State :=
  if s.power.pwrwarn then
    let s := s.setPwrwarn false
    match s.power.st with
    | .emergency => s.setPowerSt .run
    | .safe => if s.seq.st = .asleep then s.wakePart else s.setPowerSt .run
    | _ => s
  else s

end Sys2Proof.Machine
end

