-- ==== Sys2Proof/Machine/Resets.lean ====
section
/-! DEFINITION. Power-on, the RESET pin and start-up (chapter 10), and the soft reset (chapter 9.6). -/

namespace Sys2Proof.Machine

/-! ### Fuses (R177, R180) -/

/-- The bytes of a fuse group. -/
def Fuses.group (f : Fuses) : FuseGroup → List Byte
  | .key => f.key
  | .profile => f.profile
  | .fence => f.fence

/-- Replace the bytes of a fuse group. -/
def Fuses.setGroup (f : Fuses) (g : FuseGroup) (l : List Byte) : Fuses :=
  match g with
  | .key => { f with key := l }
  | .profile => { f with profile := l }
  | .fence => { f with fence := l }

/-- Whether a group's lock fuse is programmed (R177). -/
def Fuses.locked (f : Fuses) : FuseGroup → Bool
  | .key => f.keyLocked
  | .profile => f.profileLocked
  | .fence => f.fenceLocked

/-- Program a group's lock fuse (R181). -/
def Fuses.lock (f : Fuses) : FuseGroup → Fuses
  | .key => { f with keyLocked := true }
  | .profile => { f with profileLocked := true }
  | .fence => { f with fenceLocked := true }

/-- The sizes of the groups (Table 10-1). -/
def FuseGroup.size : FuseGroup → Nat
  | .key => 9
  | .profile => 16
  | .fence => 1

/-- Add one bits to the bytes of a list from a place (R179). -/
def addBits : List Byte → Nat → List Byte → List Byte
  | [], _, _ => []
  | b :: r, 0, d :: ds => (b ||| d) :: addBits r 0 ds
  | b :: r, 0, [] => b :: r
  | b :: r, n + 1, ds => b :: addBits r n ds

/-- Free value: the data bits that took when programming was cut short, any mixture (R180). -/
def takenBits (draws : Nat) (data : List Byte) : List Byte :=
  data.mapIdx fun i d => d &&& Config.fuseTaken draws i

/-- Fuse programming ended by power loss or the RESET pin: each bit asked for reads either value (R180). -/
def State.tearFuses (s : State) : State :=
  match s.port.write with
  | some { stage := .fuseProgramming job, .. } =>
    (s.withFuses (s.fuses.setGroup job.group
      (addBits (s.fuses.group job.group) job.offset (takenBits s.draws job.data)))).draw
  | _ => s

/-! ### Power-on values (R182) -/

/-- Every block at its power-on values, lanes closed, the power state STARTING. The fuse array, the PWRWARN
and GUARD levels, the requests on the interconnect and the pins stay as they are; the working key, enable and
fence are loaded when start-up begins (R106, R165). -/
def State.powerOnValues (s : State) : State :=
  { s with
    port := { s.port with reads := [], write := none, lastRefusal := none, lanesOpen := false },
    control := { s.control with overlay := none, softReset := false },
    rule := { s.rule with rules := List.replicate Config.ruleCount Rule.zero, defaultDeny := false,
                          defaultCapture := none, lock := .unlocked, lastUrgent := none },
    capture := CaptureUnit.initial,
    staging := Staging.initial,
    seq := Sequencer.initial,
    power := { s.power with st := .starting, policy := PowerPolicy.default, drainExpiry := none, lastDrain := none },
    time := { tick := 0, subTick := 0, timing := TimingSettings.default },
    events := Events.initial,
    profile := none }

/-- The working fence a FENCE fuse byte gives (Table 11-12). -/
def fenceOfFuse (b : Byte) : Fence :=
  { size := b.toNat % 8, side := if b.getLsbD 3 then .high else .low, invert := b.getLsbD 4 }

/-- The fuse array is read at start-up: working key and enable, working fence, and the profile if it is
valid (R182). -/
def State.readFuses (s : State) : State :=
  { s with
    control := { s.control with key := s.fuses.key.take 8, enable := (byteAt s.fuses.key 8).getLsbD 0 },
    rule := { s.rule with fence := fenceOfFuse (byteAt s.fuses.fence 0) },
    profile := if profileValid s.fuses.profile then some s.fuses.profile else none }

/-- Open or close both lanes (R84). -/
def State.setLanes (s : State) (o : Bool) : State := s.withPort { s.port with lanesOpen := o }

/-- Start-up ends with the power state RUN and the lanes open; with PWRWARN high an assertion is taken in
the same event, before the waiting requests are accepted (R185, log entry 14). -/
def State.endStartup (s : State) (x : SeqState) : State :=
  let s := ((s.setSeqSt x).setPowerSt .run).setLanes true
  if s.power.pwrwarn then s.takeAssertion else s

/-- The stall outcome of start-up (R185). -/
def State.stallStartup (s : State) : State := (s.raise .flashStall).endStartup .stalled

/-- RESUME at start-up, once: STARTUP_RESUMED is raised and the wait limit begins anew (R184). -/
def State.resumeStartup (s : State) : State :=
  ((s.issueBare .resume).raise .startupResumed).setSeqSt (.startupWait (tickAfter s.now Config.startupLimit) true)

/-- The first status read of start-up, at the wake end (R183). -/
def State.firstStatus (s : State) (status : Byte) : State :=
  let s := s.issueStatus
  match s.shown status with
  | .ready => s.endStartup .idle
  | .busy => s.setSeqSt (.startupWait (tickAfter s.now Config.startupLimit) false)
  | .suspended => s.resumeStartup

/-- The wake delay has passed (R78, R183): in start-up the first status is read; otherwise the sequencer is
IDLE and reports the wake's completion. -/
def State.wakeEnded (s : State) (status : Byte) : State :=
  if s.power.st = .starting then s.firstStatus status else (s.setSeqSt .idle).wakeReported

/-- The wake end at its tick (R78). -/
def State.wakeEndDue (s : State) (status : Byte) : State :=
  match s.seq.st with
  | .waking ends => if ends = s.now then s.wakeEnded status else s
  | _ => s

/-- Start-up (R182): power-on values, the fuses read; an invalid profile ends it in UNCONFIGURED with the
lanes open, a valid one begins the flash wake (R183). A wake delay of 0 ends in the event. -/
def State.startUp (s : State) (status : Byte) : State :=
  let s := s.powerOnValues.readFuses
  match s.profile with
  | none => (s.setPowerSt .unconfigured).setLanes true
  | some _ =>
    ((s.issueBare .wake).setSeqSt (.waking (tickAfter s.now s.wakeDelay))).wakeEndDue status

/-- The start-up wait's status read of a tick (R183, R184). -/
def State.startupPoll (s : State) (resumed : Bool) (status : Byte) : State :=
  let s := s.issueStatus
  match s.shown status with
  | .ready => s.endStartup .idle
  | .busy => s
  | .suspended => if resumed then s else s.resumeStartup

/-- The STALLED sequencer's status read of a tick (R76). -/
def State.stallPoll (s : State) (status : Byte) : State :=
  let s := s.issueStatus
  match s.shown status with
  | .ready => s.setSeqSt .idle
  | .busy => s
  | .suspended => s.issueBare .resume

/-- The status read a tick makes, in STALLED and STARTUP_WAIT alone (R60). -/
def State.tickPoll (s : State) (status : Byte) : State :=
  match s.seq.st with
  | .stalled => s.stallPoll status
  | .startupWait _ resumed => s.startupPoll resumed status
  | _ => s

/-- The start-up wait reaches its limit (R183, R185). -/
def State.startupLimitDue (s : State) : State :=
  match s.seq.st with
  | .startupWait limit _ => if limit = s.now then s.stallStartup else s
  | _ => s

/-- The supply is lost: all activity ends, unanswered requests get no answer (R56, R84, R180). -/
def State.losePower (s : State) : State := { s.tearFuses.powerOnValues with powered := false }

/-- The RESET pin is asserted (R84): the blocks lose their state, the lanes close until start-up ends. -/
def State.assertReset (s : State) : State := { s.tearFuses.powerOnValues with resetHeld := true }

/-- Power comes on: from power-on values start-up begins, unless the RESET pin holds it (R182). -/
def State.gainPower (s : State) (status : Byte) : State :=
  let s := { s with powered := true }
  if s.resetHeld then s.powerOnValues else s.startUp status

/-- The RESET pin is released: start-up begins (R182). A pin not asserted is not released. -/
def State.releaseReset (s : State) (status : Byte) : State :=
  if s.resetHeld then
    let s := { s with resetHeld := false }
    if s.powered then s.startUp status else s
  else s

/-- Whether the timebase counts: supply on and the RESET pin released (R155). -/
def State.running (s : State) : Bool := s.powered && !s.resetHeld

/-! ### Soft reset (R80, R174 to R176) -/

/-- What a read gets when a soft reset is accepted: its result, or FLASH_UNAVAILABLE (R175). -/
def resetResult (r : Read) : ReadResult :=
  match r.stage with
  | .resolved res => res
  | _ => .err .flashUnavailable

/-- Every read of the queue is answered, in acceptance order (R175). -/
def State.answerAll (s : State) : State :=
  s.port.reads.foldl (fun s r => s.answerRead r (resetResult r)) (s.setReads [])

/-- The sequencer's acceptance of a soft reset (R80): queued claims and requests removed; the service list
keeps only the READ in flight; an ASLEEP flash is woken. -/
def State.resetSequencer (s : State) : State :=
  let q := { s.seq with misses := [], fills := [], powerReq := none, share := 0, deferred := none }
  match s.seq.st with
  | .suspended op service => s.withSeq { q with st := .suspended op (service.take 1) }
  | .asleep => (s.withSeq q).requestWake
  | _ => s.withSeq q

/-- A soft reset accepted in DRAIN ends the drain with no result written; the power state returns to RUN
(R154, log entry 11). -/
def State.endDrainQuietly (s : State) : State :=
  if s.power.st = .drain then s.withPower { s.power with st := .run, drainExpiry := none } else s

/-- The acceptance of a soft reset (R175). The overlay ended at the record's recognition. The reads are answered here, so
before the record, which is answered when the reset takes effect (R176, log entry 23). -/
def State.acceptSoftReset (s : State) : State :=
  let s := ((s.setLanes false).withControl { s.control with softReset := true }).answerAll
  s.endDrainQuietly.resetSequencer

/-- Whether an accepted soft reset takes effect: the sequencer's part is done in IDLE or STALLED (R80). -/
def State.softResetDue (s : State) : Bool :=
  s.control.softReset && (decide (s.seq.st = .idle) || decide (s.seq.st = .stalled))

/-- The soft-reset values of every block (Table 9-3). The sequencer keeps STALLED (R80); the tick counter
goes on and the sub-tick count restarts when the prescaler changes (R155). -/
def State.softResetValues (s : State) : State :=
  { s with
    port := { s.port with reads := [], write := none, lastRefusal := none, lanesOpen := true },
    control := { s.control with overlay := none, softReset := false },
    rule := { s.rule with lastUrgent := none },
    capture := CaptureUnit.initial,
    staging := Staging.initial,
    seq := { Sequencer.initial with st := if s.seq.st = .stalled then .stalled else .idle },
    power := { s.power with st := if s.power.st = .unconfigured then .unconfigured else .run,
                            policy := PowerPolicy.default, drainExpiry := none, lastDrain := none },
    time := { s.time with subTick := if s.time.timing.prescaler = 100 then s.time.subTick else 0,
                          timing := TimingSettings.default },
    events := Events.initial }

/-- The control record of a soft reset is answered OK (R176). -/
def State.answerControl (s : State) : State :=
  match s.port.write with
  | some w => (s.setWrite none).giveAnswer (writeAnswer w.req (.ok []))
  | none => s

/-- The soft reset takes effect (R176): the record is answered, every block takes its soft-reset values,
then FLASH_STALL and the power warning of the event are raised, and the lanes are open. -/
def State.softResetEffect (s : State) : State :=
  let s := s.answerControl.softResetValues
  let s := if s.seq.st = .stalled then s.raise .flashStall else s
  if s.power.pwrwarn then s.takeAssertion else s

end Sys2Proof.Machine
end

