-- ==== Sys2Proof/Machine/Commands.lean ====
section
/-! DEFINITION. What each command of Table 9-1 does and replies, by the order of checks its rule gives. A command answers the state and its reply; no reply means that none is placed now (PROGRAM-FUSE, SOFT-RESET). -/

namespace Sys2Proof.Machine

/-- What a command leaves: the state, and the reply to place, if any (R168). -/
abbrev CommandResult := State × Option Reply

/-- An ACCEPTED reply. -/
def acceptedReply (payload : List Byte) : Reply := { status := .accepted, payload := payload, cut := false, zeroed := false }

/-- A refusal's reply, with the payload its rule names (R170). -/
def refusedReply (st : Status) (payload : List Byte) : Reply := { status := st, payload := payload, cut := false, zeroed := false }

/-- A refused command changes nothing (R169). -/
def refuse (s : State) (st : Status) (payload : List Byte) : CommandResult := (s, some (refusedReply st payload))

/-- An accepted command with its payload. -/
def accept (s : State) (payload : List Byte) : CommandResult := (s, some (acceptedReply payload))

/-- `n` free bytes for the payload offsets from `k` (log entry 9). -/
def freeBytes (draws k n : Nat) : List Byte := (List.range n).map fun i => Config.freeByte draws (k + i)

/-- The room at a control line (R170). -/
def roomAt (line : Addr) : Nat := min Config.overlayBytes (Config.sectorBytes - line.toNat % Config.sectorBytes)

/-- The bytes of the reply header (Table 11-6). -/
def headerBytes : Nat := 8

/-! ### IDENTIFY, READ-STATUS, SOFT-RESET (chapter 9) -/

/-- A number of bits as a byte, bit 0 first. -/
def bitsByte (l : List Bool) : Byte := byteOf (l.foldr (fun b n => 2 * n + (if b then 1 else 0)) 0)

/-- The IDENTIFY payload (Table 11-10). -/
def identifyPayload (s : State) : List Byte :=
  le2 Config.vendorCode.toNat ++ le2 Config.partCode.toNat ++ [Config.revision] ++
  [byteOf Config.entryCount, byteOf Config.ruleCount, byteOf (Config.queueCapacity .a), byteOf (Config.queueCapacity .b),
   byteOf Config.slotCount, byteOf Config.readLaneSize] ++
  le2 Config.overlayBytes ++ [s.profileByte 0, s.profileByte 1] ++
  [bitsByte [s.control.enable, s.fuses.keyLocked, s.fuses.profileLocked, s.fuses.fenceLocked]]

/-- IDENTIFY (R172). -/
def cmdIdentify (s : State) : CommandResult := accept s (identifyPayload s)

/-- The last drain result's bytes 2 to 7 of READ-STATUS; its tick is free when the result is absent. -/
def drainBytes (s : State) : List Byte :=
  match s.power.lastDrain with
  | none => [0x00, 0x00] ++ freeBytes s.draws 4 4
  | some r => [r.outcome.codes.1, r.outcome.codes.2] ++ le4 r.tick.toNat

/-- The last refusal record's bytes 38 to 47; access, line, rule index and tick are free when it is absent. -/
def refusalBytes (s : State) : List Byte :=
  match s.port.lastRefusal with
  | none => 0x00 :: freeBytes s.draws 39 9
  | some r =>
    [r.reason.code, r.access.code] ++ le3 r.line.toNat ++
    [match r.rule with
     | some x => x.code
     | none => 0xFF] ++ le4 r.tick.toNat

/-- The number of entries a test picks, as a byte. -/
def countEntries (s : State) (p : Entry → Bool) : Byte := byteOf (s.staging.entries.countP p)

def Entry.isFilling : Entry → Bool
  | .filling _ _ => true
  | _ => false

def Entry.isOpen : Entry → Bool
  | .opened _ _ => true
  | _ => false

def Entry.isClosed : Entry → Bool
  | .closed _ _ => true
  | _ => false

def Entry.isClean : Entry → Bool
  | .clean _ => true
  | _ => false

/-- A queue's bytes of READ-STATUS (Table 11-11). -/
def queueStatus (q : CaptureQueue) : List Byte :=
  [byteOf q.records.length, q.mode.code, yesNo q.dropped, 0x00] ++ le4 q.next.toNat

/-- The READ-STATUS payload (Table 11-11). -/
def statusPayload (s : State) : List Byte :=
  [s.power.st.code, bitsByte [s.power.policy.refuseInSleep, s.power.policy.drainAbort, s.power.policy.deepSleep]] ++
  drainBytes s ++ [yesNo s.dirtyLine, s.seq.st.code] ++
  [countEntries s Entry.isFree, countEntries s Entry.isFilling, countEntries s Entry.isOpen, countEntries s Entry.isClosed,
   countEntries s Entry.isCommitting, countEntries s Entry.isClean, countEntries s Entry.isFaulted] ++
  [bitsByte (s.capture.slots.map (·.isNew))] ++ le2 s.staging.retry ++ queueStatus s.capture.a ++ queueStatus s.capture.b ++
  [s.rule.lock.code, match s.rule.lastUrgent with
                     | some n => byteOf n
                     | none => 0xFF] ++
  refusalBytes s ++ le4 s.now.toNat ++ le4 s.events.flags.toNat ++ le4 s.events.enables.toNat ++
  le2 s.time.timing.prescaler.toNat ++
  [byteOf s.port.reads.length, byteOf s.seq.misses.length, byteOf s.seq.fills.length, yesNo s.power.pwrwarn,
   yesNo s.rule.guard, 0x00]

/-- READ-STATUS (R173): the retry counter is zeroed after it is reported, only when asked to and the reply is
not truncated. -/
def cmdReadStatus (room : Nat) (clear : Byte) (s : State) : CommandResult :=
  match boolArg clear with
  | none => refuse s .refusedRange []
  | some c =>
    let payload := statusPayload s
    let zero := c && decide (headerBytes + payload.length ≤ room)
    let s1 := if zero then s.withStaging { s.staging with retry := 0 } else s
    (s1.draw, some { acceptedReply payload with zeroed := zero })

/-- The write in progress awaits the soft reset it ordered (R175). -/
def State.awaitReset (s : State) : State :=
  match s.port.write with
  | some w => s.setWrite (some { w with stage := .softReset })
  | none => s

/-- SOFT-RESET (R174, R175). -/
def cmdSoftReset (discard : Byte) (s : State) : CommandResult :=
  match boolArg discard with
  | none => refuse s .refusedRange []
  | some d => if !d && s.unwritten then refuse s .refusedState [] else (s.awaitReset.acceptSoftReset, none)

/-! ### Timebase and events (chapter 8) -/

/-- The first row of Table 8-1, numbered from 1, whose value is out of range; 0 when all are in range (R158). -/
def firstBadTiming (t : TimingSettings) : Nat :=
  if t.prescaler = 0 ∨ 1000 < t.prescaler.toNat then 1
  else if t.holdLimit = 0 then 4
  else if t.drainLimit = 0 then 7
  else if t.replyLifetime = 0 then 8
  else if t.programLimit = 0 then 9
  else if t.eraseLimit = 0 then 10
  else if t.suspendLimit = 0 then 11
  else 0

/-- SET-TIMING (R158): all eleven at once, or none; a changed prescaler restarts the sub-tick count (R155). -/
def cmdSetTiming (t : TimingSettings) (s : State) : CommandResult :=
  if firstBadTiming t = 0 then
    accept (s.withTime { s.time with timing := t,
                                     subTick := if t.prescaler = s.time.timing.prescaler then s.time.subTick else 0 })
      (timingBytes t ++ [0x00])
  else refuse s .refusedRange (timingBytes s.time.timing ++ [byteOf (firstBadTiming t)])

/-- Whether an event set names a position assigned to no event (R162). -/
def namesUnassigned (set : BitVec 32) : Bool := set &&& ~~~ assignedEvents != 0

/-- CLEAR-EVENTS (R162). -/
def cmdClearEvents (set : BitVec 32) (s : State) : CommandResult :=
  if namesUnassigned set then refuse s .refusedRange []
  else
    let flags := s.events.flags &&& ~~~ set
    accept (s.withEvents { s.events with flags := flags }) (le4 flags.toNat)

/-- SET-EVENT-ENABLES (R163). -/
def cmdSetEventEnables (set : BitVec 32) (s : State) : CommandResult :=
  if namesUnassigned set then refuse s .refusedRange []
  else accept (s.withEvents { s.events with enables := set }) (le4 set.toNat ++ le4 s.events.flags.toNat)

/-! ### Rule unit (chapter 5) -/

/-- The stored form of a rule record whose fields are all within their values, address bits below 6 cleared
(R108, R115). -/
def storedRule (r : RuleArgs) : Option Rule :=
  match kindArg r.kind, appliesArg r.applies, actionArg r.action, targetArg r.capture with
  | some kind, some applies, some action, some capture =>
    if 23 < r.index.toNat ∨ 7 < r.flags.toNat ∨ 7 < r.slot.toNat then none
    else some { enabled := r.flags.getLsbD 0, kind := kind, addr1 := lineOf r.addr1, addr2 := lineOf r.addr2,
                applies := applies, action := action, slot := r.slot.toNat, capture := capture,
                captureData := r.flags.getLsbD 1, urgent := r.flags.getLsbD 2 }
  | _, _, _, _ => none

/-- The validity cases of SET-RULE after the field ranges (R115). -/
def State.ruleInvalid (s : State) (r : Rule) : Bool :=
  (decide (r.action = .latch) && decide (r.applies ≠ .writes)) ||
  (r.captureData && decide (r.applies = .reads)) ||
  (decide (r.kind = .range) && decide (r.addr2.toNat < r.addr1.toNat)) ||
  (decide (r.kind ≠ .mask) && (s.beyondWindow r.addr1.toNat || s.beyondWindow r.addr2.toNat))

/-- A rule as Table 11-7 lays it out. -/
def ruleBytes (i : Nat) (r : Rule) : List Byte :=
  [byteOf i, bitsByte [r.enabled, r.captureData, r.urgent], r.kind.code, r.applies.code, r.action.code, byteOf r.slot,
   targetCode r.capture] ++ le3 r.addr1.toNat ++ le3 r.addr2.toNat

/-- SET-RULE (R115). -/
def cmdSetRule (a : RuleArgs) (s : State) : CommandResult :=
  if s.rule.forbidsChange then refuse s .refusedLocked [a.index]
  else match storedRule a with
    | none => refuse s .refusedRange [a.index]
    | some r =>
      if s.ruleInvalid r then refuse s .refusedRange [a.index]
      else accept (s.withRule { s.rule with rules := s.rule.rules.set a.index.toNat r }) (ruleBytes a.index.toNat r)

/-- The default action's code. -/
def defaultCode (deny : Bool) : Byte := if deny then 0x01 else 0x00

/-- The fence fields and the protected area (Table 11-7 offsets 15 to 21): first sector and count; the first
sector is free when nothing is protected. -/
def fenceBytes (s : State) (f : Fence) (k : Nat) : List Byte :=
  let area := match s.windowSize with
    | none => (0, 0)
    | some size => f.area size
  let count := (area.2 - area.1) / Config.sectorBytes
  [byteOf f.size, f.side.code, yesNo f.invert] ++
  (if count = 0 then freeBytes s.draws k 2 else le2 (area.1 / Config.sectorBytes)) ++ le2 count

/-- READ-RULE (R117). -/
def cmdReadRule (index : Byte) (s : State) : CommandResult :=
  if 23 < index.toNat then refuse s .refusedRange []
  else
    accept s.draw
      (ruleBytes index.toNat ((s.rule.rules[index.toNat]?).getD Rule.zero) ++
       [defaultCode s.rule.defaultDeny, targetCode s.rule.defaultCapture] ++ fenceBytes s s.rule.fence 18 ++
       [s.rule.lock.code, yesNo s.rule.guard])

/-- SET-DEFAULT (R116). -/
def cmdSetDefault (action capture : Byte) (s : State) : CommandResult :=
  if s.rule.forbidsChange then refuse s .refusedLocked []
  else match actionArg action, targetArg capture with
    | some .absorb, some c =>
      accept (s.withRule { s.rule with defaultDeny := false, defaultCapture := c }) [defaultCode false, targetCode c]
    | some .deny, some c =>
      accept (s.withRule { s.rule with defaultDeny := true, defaultCapture := c }) [defaultCode true, targetCode c]
    | _, _ => refuse s .refusedRange []

/-- The fence of SET-FENCE's arguments, when each is one of its values (R107). -/
def fenceArg (size side invert : Byte) : Option Fence :=
  match sideArg side, boolArg invert with
  | some sd, some inv => if 7 < size.toNat then none else some { size := size.toNat, side := sd, invert := inv }
  | _, _ => none

/-- SET-FENCE (R107). -/
def cmdSetFence (size side invert : Byte) (s : State) : CommandResult :=
  if s.fuses.fenceLocked then refuse s .refusedLocked []
  else if s.rule.forbidsChange then refuse s .refusedLocked []
  else match fenceArg size side invert with
    | none => refuse s .refusedRange []
    | some f =>
      if s.unwritten then refuse s .refusedBusy []
      else accept (s.withRule { s.rule with fence := f }).draw (fenceBytes s f 3)

/-- Whether SET-LOCK from a state to another is accepted, at a GUARD level (R119). -/
def lockAllowed (guard : Bool) : LockState → LockState → Bool
  | .unlocked, _ => true
  | .guarded, .unlocked => guard
  | .guarded, _ => true
  | .frozen, _ => false

/-- SET-LOCK (R119). -/
def cmdSetLock (lock : Byte) (s : State) : CommandResult :=
  match lockArg lock with
  | none => refuse s .refusedRange [s.rule.lock.code]
  | some l =>
    if lockAllowed s.rule.guard s.rule.lock l then accept (s.withRule { s.rule with lock := l }) [l.code]
    else refuse s .refusedLocked [s.rule.lock.code]

/-! ### Capture unit (chapter 6) -/

/-- SET-QUEUE (R135). -/
def cmdSetQueue (queue mode watermark : Byte) (s : State) : CommandResult :=
  match queueArg queue, modeArg mode with
  | some n, some m =>
    if watermark = 0 ∨ Config.queueCapacity n < watermark.toNat then refuse s .refusedRange []
    else
      let q := { s.capture.queue n with mode := m, watermark := watermark.toNat }
      accept (s.withCapture (s.capture.setQueue n q))
        ([queue, mode, watermark, byteOf q.records.length] ++ le4 q.next.toNat)
  | _, _ => refuse s .refusedRange []

/-- A capture record as carried (Table 11-8). -/
def captureBytes (r : CaptureRecord) : List Byte :=
  le4 r.number.toNat ++ le4 r.tick.toNat ++ le3 r.line.toNat ++
  [byteOf r.offset, byteOf r.length, r.access.code, r.rule.code, r.outcome.code, byteOf (r.data.getD []).length, 0x00, 0x00, 0x00] ++
  r.data.getD []

/-- The records from the head that fit whole in `space` bytes, at most `limit` (R132). -/
def fittingRecords : Nat → Nat → List CaptureRecord → List CaptureRecord
  | _, 0, _ => []
  | _, _, [] => []
  | space, limit + 1, r :: rest =>
    if (captureBytes r).length ≤ space then r :: fittingRecords (space - (captureBytes r).length) limit rest else []

/-- The fixed bytes of a FETCH-CAPTURE payload (chapter 11.3). -/
def fetchFixed : Nat := 16

/-- The FETCH-CAPTURE payload: the fixed fields and the records carried (chapter 11.3). -/
def fetchPayload (queue : Byte) (q : CaptureQueue) (rs : List CaptureRecord) : List Byte :=
  [queue, q.mode.code, byteOf q.watermark, yesNo q.dropped, byteOf q.records.length, byteOf rs.length, 0x00, 0x00] ++
  le4 q.next.toNat ++
  le4 (match rs with
       | r :: _ => r.number.toNat
       | [] => q.next.toNat) ++
  rs.flatMap captureBytes

/-- FETCH-CAPTURE (R132): records copied from the head, the dropped flag cleared after it is reported. -/
def cmdFetchCapture (room : Nat) (queue maximum : Byte) (s : State) : CommandResult :=
  match queueArg queue with
  | none => refuse s .refusedRange []
  | some n =>
    if maximum = 0 ∨ 32 < maximum.toNat then refuse s .refusedRange []
    else
      let q := s.capture.queue n
      let rs := fittingRecords (room - headerBytes - fetchFixed) maximum.toNat q.records
      accept (s.withCapture (s.capture.setQueue n { q with dropped := false })) (fetchPayload queue q rs)

/-- ACK-CAPTURE (R133). -/
def cmdAckCapture (queue : Byte) (number : BitVec 32) (s : State) : CommandResult :=
  match queueArg queue with
  | none => refuse s .refusedRange []
  | some n =>
    match ackCount (s.capture.queue n) number with
    | none => refuse s .refusedRange []
    | some k =>
      let q := (s.capture.queue n).remove s.now (staleLimit s.time.timing n) k
      accept (s.withCapture (s.capture.setQueue n q))
        ([queue, byteOf k, byteOf q.records.length, 0x00] ++ le4 q.next.toNat)

/-- The FETCH-SLOT payload (Table 11-9); the record's fields are free when the slot is empty. -/
def slotBytes (draws : Nat) (n : Byte) (x : LatchSlot) : List Byte :=
  match x.record with
  | none => [n, bitsByte [x.isNew, false]] ++ freeBytes draws 2 10
  | some r =>
    [n, bitsByte [x.isNew, true]] ++ le3 r.line.toNat ++ [byteOf r.offset, byteOf r.data.length, byteOf r.rule] ++
    le4 r.tick.toNat ++ r.data

/-- FETCH-SLOT (R138). -/
def cmdFetchSlot (slot : Byte) (s : State) : CommandResult :=
  if 7 < slot.toNat then refuse s .refusedRange []
  else accept s.draw (slotBytes s.draws slot (s.capture.slot slot.toNat))

/-- RELEASE-SLOT (R139). -/
def cmdReleaseSlot (slot : Byte) (s : State) : CommandResult :=
  if 7 < slot.toNat then refuse s .refusedRange []
  else
    let x := s.capture.slot slot.toNat
    accept (s.withCapture { s.capture with slots := s.capture.slots.set slot.toNat { x with isNew := false } })
      [slot, yesNo x.isNew]

/-! ### Staging controller (chapter 2) -/

/-- The counts of a FLUSH: entries made CLOSED, given close-on-fill, made CLEAN (R39). -/
def flushCounts (es : List Entry) : List Byte :=
  [byteOf (es.countP fun e => closeEffect e == .madeClosed), byteOf (es.countP fun e => closeEffect e == .marked),
   byteOf (es.countP fun e => closeEffect e == .madeClean)]

/-- FLUSH (R39). -/
def cmdFlush (scope : Byte) (sector : Half) (s : State) : CommandResult :=
  if scope = 0x00 then accept (s.withStaging (s.staging.closeAll .flush)) (flushCounts s.staging.entries)
  else if scope = 0x01 then
    if s.beyondSectors sector.toNat then refuse s .refusedRange []
    else match s.staging.find sector.toNat with
      | none => accept s (flushCounts [])
      | some i => accept (s.withStaging (s.staging.close .flush i)) (flushCounts [s.staging.entry i])
  else refuse s .refusedRange []

/-- A FAULTED entry's sector and fault record. -/
def faultOf : Entry → Option (Nat × FaultRecord)
  | .faulted d r => some (d.number, r)
  | _ => none

/-- Insert by sector, ascending (R53). -/
def insertFault (x : Nat × FaultRecord) : List (Nat × FaultRecord) → List (Nat × FaultRecord)
  | [] => [x]
  | y :: r => if x.1 ≤ y.1 then x :: y :: r else y :: insertFault x r

/-- The FAULTED entries in ascending sector order (R53). -/
def sortedFaults (es : List Entry) : List (Nat × FaultRecord) := (es.filterMap faultOf).foldr insertFault []

/-- A fault descriptor (chapter 11.3): the page bits are free when no page is present. -/
def faultBytes (free : Byte) (x : Nat × FaultRecord) : List Byte :=
  le2 x.1 ++
  [match x.2.page with
   | some p => byteOf (p % 16 + 16 * x.2.kind.code.toNat + 128)
   | none => byteOf (free.toNat % 16 + 16 * x.2.kind.code.toNat)] ++ le4 x.2.tick.toNat

/-- LIST-FAULTS (R53): as many whole descriptors as fit, from the lowest sector. -/
def cmdListFaults (room : Nat) (s : State) : CommandResult :=
  let all := sortedFaults s.staging.entries
  let carried := all.take ((room - headerBytes - 1) / 7)
  (s.draw, some { acceptedReply (byteOf carried.length :: (carried.mapIdx fun i x => faultBytes (Config.freeByte s.draws (3 + 7 * i)) x).flatten) with
                  cut := decide (carried.length < all.length) })

/-- FAULT-RETRY (R54): the FAULTED entry becomes CLOSED with cause RETRY at the tail of the close queue. -/
def cmdFaultRetry (sector : Half) (s : State) : CommandResult :=
  if s.beyondSectors sector.toNat then refuse s .refusedRange []
  else if s.power.st = .emergency ∨ s.power.st = .safe then refuse s .refusedState []
  else match s.staging.find sector.toNat with
    | none => refuse s .notFound []
    | some i =>
      match s.staging.entry i with
      | .faulted d _ =>
        accept (s.withStaging { s.staging.setEntry i (.closed d .retry) with closeQueue := s.staging.closeQueue ++ [i] }) []
      | _ => refuse s .notFound []

/-- FAULT-DISCARD (R55): the FAULTED entry becomes FREE; results held from it are resolved afresh (R92). -/
def cmdFaultDiscard (sector : Half) (s : State) : CommandResult :=
  if s.beyondSectors sector.toNat then refuse s .refusedRange []
  else match s.staging.find sector.toNat with
    | none => refuse s .notFound []
    | some i =>
      match s.staging.entry i with
      | .faulted d _ =>
        accept ((s.withStaging (s.staging.setEntry i .free)).resolveAfresh (Read.fromEntry i d.number)) []
      | _ => refuse s .notFound []

/-! ### Flash and power policy (chapters 3 and 7) -/

/-- The flash policy of SET-FLASH-POLICY's arguments, when every field is in range (R79). -/
def policyOf (a : PolicyArgs) : Option FlashPolicy :=
  match boolArg a.suspendEnable, boolArg a.verifyEnable with
  | some se, some ve =>
    if 7 < a.eraseBudget.toNat ∨ 3 < a.programBudget.toNat ∨ a.commitShare = 0 ∨ 64 < a.commitShare.toNat then none
    else some { suspendEnable := se, eraseBudget := a.eraseBudget.toNat, programBudget := a.programBudget.toNat,
                resumeSpacing := a.resumeSpacing.toNat, verifyEnable := ve, commitShare := a.commitShare.toNat }
  | _, _ => none

/-- SET-FLASH-POLICY (R79). -/
def cmdSetFlashPolicy (a : PolicyArgs) (s : State) : CommandResult :=
  match policyOf a with
  | none => refuse s .refusedRange []
  | some p => accept (s.withSeq { s.seq with policy := p }) (policyArgBytes a)

/-- SLEEP (R142): in RUN a drain starts. The drain condition is evaluated in the same event by `settle`, and
the reply's header carries the power state at the end of the event. -/
def cmdSleep (s : State) : CommandResult :=
  if s.power.st = .run then
    accept
      ((s.withPower { s.power with st := .drain,
                                   drainExpiry := some (tickAfter s.now s.time.timing.drainLimit.toNat) }).withStaging
        (s.staging.closeAll .drain)) []
  else refuse s .refusedState []

/-- WAKE (R147). -/
def cmdWake (s : State) : CommandResult :=
  match s.power.st with
  | .sleep => accept s.wakePart []
  | .waking => accept s []
  | .run => accept s []
  | _ => refuse s .refusedState []

/-- SET-POWER-POLICY (R152). -/
def cmdSetPowerPolicy (sleepRead drainAbort deepSleep : Byte) (s : State) : CommandResult :=
  match boolArg sleepRead, boolArg drainAbort, boolArg deepSleep with
  | some r, some a, some d =>
    accept (s.withPower { s.power with policy := { refuseInSleep := r, drainAbort := a, deepSleep := d } })
      [yesNo r, yesNo a, yesNo d]
  | _, _, _ => refuse s .refusedRange []

/-! ### Fuses (chapter 10) -/

/-- The write in progress programs fuses until the programming completion (R180). -/
def State.startFuses (s : State) (job : FuseJob) : State :=
  match s.port.write with
  | some w => s.setWrite (some { w with stage := .fuseProgramming job })
  | none => s

/-- PROGRAM-FUSE (R179): refused, or programming begins and no reply is placed yet. -/
def cmdProgramFuse (group offset count : Byte) (data : List Byte) (s : State) : CommandResult :=
  match groupArg group with
  | none => refuse s .refusedRange []
  | some g =>
    if s.fuses.locked g then refuse s .refusedLocked []
    else if count = 0 ∨ 16 < count.toNat ∨ g.size < offset.toNat + count.toNat then refuse s .refusedRange []
    else (s.startFuses { group := g, offset := offset.toNat, data := padTo count.toNat data }, none)

/-- LOCK-FUSE (R181). -/
def cmdLockFuse (group : Byte) (s : State) : CommandResult :=
  match groupArg group with
  | none => refuse s .refusedRange []
  | some g => accept (s.withFuses (s.fuses.lock g)) [group, yesNo (s.fuses.locked g)]

/-- A code that names no command (R169). -/
def cmdUnknown (s : State) : CommandResult := refuse s .unknownCommand []

end Sys2Proof.Machine
end

