-- ==== Sys2Proof/Machine/ControlUnit.lean ====
section
/-! DEFINITION. The control unit (chapter 9): recognition, execution by code, the reply overlay; and the acceptance of a write, which begins with recognition. -/

namespace Sys2Proof.Machine

/-! ### Replies (R170) -/

/-- The overlay a reply makes at a control line: header, then the payload cut to the room (R170, Table 11-6). -/
def replyOverlay (s : State) (line : Addr) (code : Byte) (r : Reply) : Overlay :=
  let room := roomAt line - headerBytes
  let payload := r.payload.take room
  let cut := r.cut || decide (room < r.payload.length)
  let bytes := [r.status.code, code] ++ le2 payload.length ++ [bitsByte [cut, r.zeroed], s.power.st.code, 0x00, 0x00] ++ payload
  { line := line, count := (bytes.length + Config.lineBytes - 1) / Config.lineBytes, bytes := bytes,
    expiry := tickAfter s.now s.time.timing.replyLifetime.toNat }

/-- Whether a reply waits to be placed. -/
def State.canPlaceReply (s : State) : Bool :=
  match s.port.write with
  | some { stage := .replying _ _, .. } => true
  | _ => false

/-- The reply is placed as an overlay and the control record answered OK (R168, R170). -/
def State.placeReply (s : State) : State :=
  match s.port.write with
  | some w =>
    match w.stage with
    | .replying code r =>
      (s.withControl { s.control with overlay := some (replyOverlay s w.req.line code r) }).answerControl
    | _ => s
  | none => s

/-- The reply waits until the event's other effects are done, so that its header carries the power state at
the end of execution (Table 11-6). -/
def State.setReply (s : State) (code : Byte) (r : Reply) : State :=
  match s.port.write with
  | some w => s.setWrite (some { w with stage := .replying code r })
  | none => s

/-- What a command left is taken over: its reply waits to be placed (R168). -/
def finishCommand (code : Byte) (r : CommandResult) : State :=
  match r.2 with
  | some reply => r.1.setReply code reply
  | none => r.1

/-! ### Execution (R169, Table 11-4) -/

/-- Execute the command of a code with its arguments, bytes 9 to 61 of the record (R169, R186). -/
def execCode (room : Nat) (code : Byte) (a : List Byte) (s : State) : CommandResult :=
  match code.toNat with
  | 0x01 => cmdIdentify s
  | 0x02 => cmdReadStatus room (byteAt a 0) s
  | 0x03 => cmdSoftReset (byteAt a 0) s
  | 0x10 => cmdSetTiming (timingArg a) s
  | 0x11 => cmdClearEvents (word a 0) s
  | 0x12 => cmdSetEventEnables (word a 0) s
  | 0x20 => cmdSetRule (ruleArg a) s
  | 0x21 => cmdReadRule (byteAt a 0) s
  | 0x22 => cmdSetDefault (byteAt a 0) (byteAt a 1) s
  | 0x23 => cmdSetFence (byteAt a 0) (byteAt a 1) (byteAt a 2) s
  | 0x24 => cmdSetLock (byteAt a 0) s
  | 0x30 => cmdSetQueue (byteAt a 0) (byteAt a 1) (byteAt a 2) s
  | 0x31 => cmdFetchCapture room (byteAt a 0) (byteAt a 1) s
  | 0x32 => cmdAckCapture (byteAt a 0) (word a 1) s
  | 0x33 => cmdFetchSlot (byteAt a 0) s
  | 0x34 => cmdReleaseSlot (byteAt a 0) s
  | 0x40 => cmdFlush (byteAt a 0) (half a 1) s
  | 0x41 => cmdListFaults room s
  | 0x42 => cmdFaultRetry (half a 0) s
  | 0x43 => cmdFaultDiscard (half a 0) s
  | 0x50 => cmdSetFlashPolicy (policyArg a) s
  | 0x60 => cmdSleep s
  | 0x61 => cmdWake s
  | 0x62 => cmdSetPowerPolicy (byteAt a 0) (byteAt a 1) (byteAt a 2) s
  | 0x70 => cmdProgramFuse (byteAt a 0) (byteAt a 1) (byteAt a 2) (a.drop 3) s
  | 0x71 => cmdLockFuse (byteAt a 0) s
  | _ => cmdUnknown s

/-- A control record is consumed (R168): the hold timer is stopped, an overlay that exists ends, and the
command is executed; the record stays the write in progress until it is answered. -/
def State.consumeRecord (s : State) (w : WriteInProgress) (bs : List Byte) : State :=
  let s := (s.setWrite (some { w with hold := none, stage := .control })).endOverlay
  finishCommand (byteAt bs 8) (execCode (roomAt w.req.line) (byteAt bs 8) ((bs.drop 9).take 53) s)

/-! ### Acceptance of a write (R82, R83, R94, R95) -/

/-- Control recognition (R166, R167): a control record leaves the stage order; a keyed line whose check fails
raises CONTROL_CHECK_FAILED and passes on. -/
def State.recognise (s : State) (w : WriteInProgress) : State :=
  if s.control.enable then
    match keyedLine s.control.key w.req with
    | some bs =>
      if checkHolds bs then s.consumeRecord w bs else (s.raise .controlCheckFailed).powerStage w
    | none => s.powerStage w
  else s.powerStage w

/-- Accept a write: the hold timer starts (R94), the span and window check is made (R82, R83), and the write
takes its stages. -/
def State.acceptWrite (s : State) (req : WriteReq) : State :=
  let w : WriteInProgress :=
    { req := req, accepted := s.now, hold := some (tickAfter s.now s.time.timing.holdLimit.toNat), stage := .taking,
      decision := none }
  let s := s.setWrite (some w)
  if crossesLine req.offset req.bytes.length || !selectsByte req.bytes || s.pastWindow req.line req.offset req.bytes.length
  then s.refuseWrite w .badSpan
  else s.recognise w

/-- Whether the write lane accepts the next write presented (R84, R94). -/
def State.canAcceptWrite (s : State) : Bool :=
  s.port.lanesOpen && s.port.write.isNone && !s.port.waitWrites.isEmpty

/-- Accept the next write the interconnect presents (R84). -/
def State.acceptNextWrite (s : State) : State :=
  match s.port.waitWrites with
  | [] => s
  | req :: rest => (s.withPort { s.port with waitWrites := rest }).acceptWrite req

/-- A write is presented at the port (R82, R84); its line is the line its address falls in (log entry 16). -/
def State.presentWrite (s : State) (req : WriteReq) : State :=
  s.withPort { s.port with waitWrites := s.port.waitWrites ++ [{ req with line := lineOf req.line }] }

/-- The GUARD line stands at a level in the event (log entry 7). -/
def State.setGuard (s : State) (level : Bool) : State := s.withRule { s.rule with guard := level }

/-- A control record of a command is presented at the port, with the working key and a right check (log
entry 8). -/
def State.presentRecord (s : State) (line : Addr) (code : Byte) (args : List Byte) : State :=
  s.presentWrite (controlRecord s.control.key line code args)

/-! ### Fuse programming completion (R179) -/

/-- The data bits that took: those asked for that did not fail. -/
def tookBits (failed : List Byte) (data : List Byte) : List Byte :=
  data.mapIdx fun i d => d &&& ~~~ (byteAt failed i)

/-- The number of bytes in which a one bit of the data reads back as zero (R179). -/
def unprogrammed (data back : List Byte) : Nat := (List.zipWith (fun d b => d &&& ~~~ b != 0) data back).countP (· = true)

/-- Fuse programming ends (R179): the addressed bytes have the data's one bits added, but for bits that
failed; they are read back and the reply is placed in the same event. -/
def State.completeFuses (s : State) (failed : List Byte) : State :=
  match s.port.write with
  | some w =>
    match w.stage with
    | .fuseProgramming job =>
      let bytes := addBits (s.fuses.group job.group) job.offset (tookBits failed job.data)
      let back := (bytes.drop job.offset).take job.data.length
      (s.withFuses (s.fuses.setGroup job.group bytes)).setReply 0x70
        (acceptedReply ([job.group.code, byteOf job.offset, byteOf job.data.length, byteOf (unprogrammed job.data back)] ++ back))
    | _ => s
  | none => s

/-! ### Timers of the lanes and the overlay (R99, R171) -/

/-- The hold timer of a held write expires: it is refused HOLD_EXPIRED (R99). -/
def State.holdExpired (s : State) : State :=
  match s.port.write with
  | some w =>
    match w.stage with
    | .held _ => if timerDue s.now w.hold then (s.raise .holdExpired).refuseWrite w .holdExpired else s
    | _ => s
  | none => s

/-- The reply overlay's lifetime runs out (R171). -/
def State.overlayExpired (s : State) : State :=
  match s.control.overlay with
  | some o => if o.expiry = s.now then s.endOverlay else s
  | none => s

/-- An entry's idle timer expires, if it is due (R32). -/
def State.idleExpired (s : State) (i : Nat) : State :=
  if timerDue s.now (s.staging.entry i).idleExpiry then s.withStaging (s.staging.expireIdle i) else s

/-- An entry's age timer expires, if it is due (R34). -/
def State.ageExpired (s : State) (i : Nat) : State :=
  if timerDue s.now (s.staging.entry i).ageExpiry then s.withStaging (s.staging.expireAge i) else s

/-- A queue's stale timer expires, if it is due (R131). -/
def State.staleExpired (s : State) (n : QueueName) : State :=
  if timerDue s.now (s.capture.queue n).staleExpiry then s.expireStale n else s

end Sys2Proof.Machine
end

