-- ==== Sys2Proof/Machine/Settle.lean ====
section
/-! DEFINITION. One event, whole: the command's own effect, then every effect the rules place in the same event, until none is left (log entry 1). And the tick (R155, R156). -/

namespace Sys2Proof.Machine

/-- The next effect the rules place in the event, in the order of log entry 1; none when the event is done:
a soft reset takes effect (R176); a held write is released (R98); hazard waits end (R88); a sleep request is
withdrawn (R143); the IDLE sequencer grants (R63); the drain completes (R143); SAFE is reached (R149); a reply is
placed (R170); the oldest read is answered once RESOLVED, and the read it makes room for accepted (R86), so after the
write whose answer resolves it (R94) and before the next write, whose acceptance is the next event (chapter 4.4); a
waiting write is accepted (R84, R94); a waiting read is accepted (R84, R85), which lanes just opened do after the writes
(R94). -/
def settleOnce (s : State) : Option State :=
  if s.softResetDue then some s.softResetEffect
  else if s.canReleaseWrite then some s.releaseWrite
  else if s.canReleaseHazard then some s.releaseHazards
  else if s.sleepSpoiled then some s.withdrawSleep
  else if s.canGrant then some s.grantNext
  else if s.drainDue then some s.completeDrain
  else if s.safeDue then some s.enterSafe
  else if s.canPlaceReply then some s.placeReply
  else if s.canAnswer then some s.answerInTurn
  else if s.canAcceptWrite then some s.acceptNextWrite
  else if s.canAcceptRead then some s.acceptNextRead
  else none

/-- Take up to `n` effects. -/
def settleN : Nat → State → State
  | 0, s => s
  | n + 1, s =>
    match settleOnce s with
    | some s' => settleN n s'
    | none => s

/-- More effects than one event has: grants of commit starts without a step are at most 16, answers at most
4, and each waiting request adds a few. -/
def settleBound (s : State) : Nat := 128 + 32 * (s.port.waitReads.length + s.port.waitWrites.length)

/-- Every effect the rules place in the event. -/
def settle (s : State) : State := settleN (settleBound s) s

/-- A whole event: the outputs of the event before are forgotten, the command's own effect is made, and the
event is settled. -/
def event (body : State → State) (s : State) : State := settle (body s.clearOut)

/-! ### The tick (R155, R156) -/

/-- The idle and age expiries of the entries that are due. -/
def takeEntryExpiries (s : State) : State :=
  (List.range Config.entryCount).foldl (fun s i => (s.idleExpired i).ageExpired i) s

/-- Every expiry due at the present tick is taken (R156). The spec leaves the order of two of them to either
order; this one is the model's choice (log entry 3). A held write is released, and a drain completes, only as the event is
settled after the last expiry: a hold expiry due at the tick of a wake end, of a commit's end or of an expiry that makes an
entry CLEAN decides the held write (R99), and a drain expiry decides the drain (R144), both DESIGN CHOICES (log entry 3). -/
def takeDue (status : Byte) (s : State) : State :=
  let s := (s.wakeEndDue status).suspendLimit status
  let s := s.timeLimit.deferredDue.startupLimitDue.holdExpired
  ((((takeEntryExpiries s).staleExpired .a).staleExpired .b).drainExpired).overlayExpired

/-- The increment: the tick counter grows by one, modulo 2^32, the sub-tick count is 0, the busy ticks grow
(R155, R156, R69). -/
def State.increment (s : State) : State :=
  (s.withTime { s.time with tick := s.time.tick + 1, subTick := 0 }).setSeqSt s.seq.st.grow

/-- One tick: the counter is incremented; STALLED and STARTUP_WAIT, as the increment finds them, read STATUS once
(R60); and every timer whose expiry tick the counter now equals expires, in this same event (R156). -/
def tickBody (status : Byte) (s : State) : State := takeDue status (s.increment.tickPoll status)

/-- A tick of a part that is running; a part without power or held in reset counts nothing (R155). -/
def State.oneTick (status : Byte) (s : State) : State := if s.running then tickBody status s else s

/-- One microsecond (R155): the sub-tick count grows by one, and a tick comes when it reaches the prescaler.
The status byte a tick's status read shows is a free value here, since no command carries it (log entry 4). -/
def State.microsecond (s : State) : State :=
  if s.running then
    if s.time.subTick + 1 < s.time.timing.prescaler.toNat then s.withTime { s.time with subTick := s.time.subTick + 1 }
    else (tickBody (Config.linkStatus s.draws) s).draw
  else s

end Sys2Proof.Machine
end

