-- ==== Sys2Proof/Machine/ControlRows.lean ====
section
/-! DEFINITION. The meanings of the commands of the control records of Table 9-1, each a write of a record with the working key and a right check (log entry 8). -/

namespace Sys2Proof.Machine

/-- IDENTIFY (R172). -/
def execIdentify (line : Addr) (s : State) : Host.Outcome State Fault Refusal :=
  .next (event (fun s => s.presentRecord line 0x01 []) s)

/-- READ-STATUS (R173). -/
def execReadStatus (line : Addr) (clear : Byte) (guard : Bool) (s : State) : Host.Outcome State Fault Refusal :=
  .next (event (fun s => (s.setGuard guard).presentRecord line 0x02 [clear]) s)

/-- SOFT-RESET (R174, R175). -/
def execSoftReset (line : Addr) (discard : Byte) (s : State) : Host.Outcome State Fault Refusal :=
  .next (event (fun s => s.presentRecord line 0x03 [discard]) s)

/-- SET-TIMING (R158). -/
def execSetTiming (line : Addr) (settings : TimingSettings) (s : State) : Host.Outcome State Fault Refusal :=
  .next (event (fun s => s.presentRecord line 0x10 (timingBytes settings)) s)

/-- CLEAR-EVENTS (R162). -/
def execClearEvents (line : Addr) (set : BitVec 32) (s : State) : Host.Outcome State Fault Refusal :=
  .next (event (fun s => s.presentRecord line 0x11 (le4 set.toNat)) s)

/-- SET-EVENT-ENABLES (R163). -/
def execSetEventEnables (line : Addr) (set : BitVec 32) (s : State) : Host.Outcome State Fault Refusal :=
  .next (event (fun s => s.presentRecord line 0x12 (le4 set.toNat)) s)

/-- SET-RULE (R115). -/
def execSetRule (line : Addr) (rule : RuleArgs) (guard : Bool) (s : State) : Host.Outcome State Fault Refusal :=
  .next (event (fun s => (s.setGuard guard).presentRecord line 0x20 (ruleArgBytes rule)) s)

/-- READ-RULE (R117). -/
def execReadRule (line : Addr) (index : Byte) (guard : Bool) (s : State) : Host.Outcome State Fault Refusal :=
  .next (event (fun s => (s.setGuard guard).presentRecord line 0x21 [index]) s)

/-- SET-DEFAULT (R116). -/
def execSetDefault (line : Addr) (action capture : Byte) (guard : Bool) (s : State) : Host.Outcome State Fault Refusal :=
  .next (event (fun s => (s.setGuard guard).presentRecord line 0x22 [action, capture]) s)

/-- SET-FENCE (R107). -/
def execSetFence (line : Addr) (size side invert : Byte) (guard : Bool) (s : State) : Host.Outcome State Fault Refusal :=
  .next (event (fun s => (s.setGuard guard).presentRecord line 0x23 [size, side, invert]) s)

/-- SET-LOCK (R119). -/
def execSetLock (line : Addr) (lock : Byte) (guard : Bool) (s : State) : Host.Outcome State Fault Refusal :=
  .next (event (fun s => (s.setGuard guard).presentRecord line 0x24 [lock]) s)

/-- SET-QUEUE (R135). -/
def execSetQueue (line : Addr) (queue mode watermark : Byte) (s : State) : Host.Outcome State Fault Refusal :=
  .next (event (fun s => s.presentRecord line 0x30 [queue, mode, watermark]) s)

/-- FETCH-CAPTURE (R132). -/
def execFetchCapture (line : Addr) (queue maximum : Byte) (s : State) : Host.Outcome State Fault Refusal :=
  .next (event (fun s => s.presentRecord line 0x31 [queue, maximum]) s)

/-- ACK-CAPTURE (R133). -/
def execAckCapture (line : Addr) (queue : Byte) (number : BitVec 32) (s : State) : Host.Outcome State Fault Refusal :=
  .next (event (fun s => s.presentRecord line 0x32 (queue :: le4 number.toNat)) s)

/-- FETCH-SLOT (R138). -/
def execFetchSlot (line : Addr) (slot : Byte) (s : State) : Host.Outcome State Fault Refusal :=
  .next (event (fun s => s.presentRecord line 0x33 [slot]) s)

/-- RELEASE-SLOT (R139). -/
def execReleaseSlot (line : Addr) (slot : Byte) (s : State) : Host.Outcome State Fault Refusal :=
  .next (event (fun s => s.presentRecord line 0x34 [slot]) s)

/-- FLUSH (R39). -/
def execFlush (line : Addr) (scope : Byte) (sector : Half) (s : State) : Host.Outcome State Fault Refusal :=
  .next (event (fun s => s.presentRecord line 0x40 (scope :: le2 sector.toNat)) s)

/-- LIST-FAULTS (R53). -/
def execListFaults (line : Addr) (s : State) : Host.Outcome State Fault Refusal :=
  .next (event (fun s => s.presentRecord line 0x41 []) s)

/-- FAULT-RETRY (R54). -/
def execFaultRetry (line : Addr) (sector : Half) (s : State) : Host.Outcome State Fault Refusal :=
  .next (event (fun s => s.presentRecord line 0x42 (le2 sector.toNat)) s)

/-- FAULT-DISCARD (R55). -/
def execFaultDiscard (line : Addr) (sector : Half) (s : State) : Host.Outcome State Fault Refusal :=
  .next (event (fun s => s.presentRecord line 0x43 (le2 sector.toNat)) s)

/-- SET-FLASH-POLICY (R79). -/
def execSetFlashPolicy (line : Addr) (policy : PolicyArgs) (s : State) : Host.Outcome State Fault Refusal :=
  .next (event (fun s => s.presentRecord line 0x50 (policyArgBytes policy)) s)

/-- SLEEP (R142). -/
def execSleep (line : Addr) (s : State) : Host.Outcome State Fault Refusal :=
  .next (event (fun s => s.presentRecord line 0x60 []) s)

/-- WAKE (R147). -/
def execWake (line : Addr) (s : State) : Host.Outcome State Fault Refusal :=
  .next (event (fun s => s.presentRecord line 0x61 []) s)

/-- SET-POWER-POLICY (R152). -/
def execSetPowerPolicy (line : Addr) (sleepRead drainAbort deepSleep : Byte) (s : State) : Host.Outcome State Fault Refusal :=
  .next (event (fun s => s.presentRecord line 0x62 [sleepRead, drainAbort, deepSleep]) s)

/-- PROGRAM-FUSE (R179). -/
def execProgramFuse (line : Addr) (group offset count : Byte) (data : List Byte) (s : State) : Host.Outcome State Fault Refusal :=
  .next (event (fun s => s.presentRecord line 0x70 (group :: offset :: count :: data)) s)

/-- LOCK-FUSE (R181). -/
def execLockFuse (line : Addr) (group : Byte) (s : State) : Host.Outcome State Fault Refusal :=
  .next (event (fun s => s.presentRecord line 0x71 [group]) s)

/-- A record whose code names no command (R169). -/
def execUnknownCommand (line : Addr) (code : Byte) (s : State) : Host.Outcome State Fault Refusal :=
  .next (event (fun s => s.presentRecord line code []) s)

end Sys2Proof.Machine
end

