-- ==== Sys2Proof/Machine/FlashEvents.lean ====
section
/-! DEFINITION. The meanings of the commands of the flash link and the sequencer (chapter 3). -/

namespace Sys2Proof.Machine

/-- The IDLE sequencer grants its first eligible claim (R63). -/
def execGrant (s : State) : Host.Outcome State Fault Refusal :=
  .next (event (fun s => if s.canGrant then s.grantNext else s) s)

/-- The READ in flight completes with its bytes (R66, R71). -/
def execReadComplete (bytes : List Byte) (s : State) : Host.Outcome State Fault Refusal :=
  .next (event (fun s => s.completeRead bytes) s)

/-- A status read of the polling; one that shows ready and not suspended completes the ERASE or PROGRAM (R60, R67). -/
def execOperationComplete (status : Byte) (s : State) : Host.Outcome State Fault Refusal :=
  .next (event (fun s => s.pollStatus status) s)

/-- A status read of the polling; one that shows ready and suspended completes the suspension (R60, R70). -/
def execSuspensionComplete (status : Byte) (s : State) : Host.Outcome State Fault Refusal :=
  .next (event (fun s => s.pollStatus status) s)

/-- A status read of the polling; one that shows busy ends RESUMING (R60, R72). -/
def execResumeBusy (status : Byte) (s : State) : Host.Outcome State Fault Refusal :=
  .next (event (fun s => s.pollStatus status) s)

/-- The deferred suspension is due: the decision is made again (R68). -/
def execDeferredSuspension (s : State) : Host.Outcome State Fault Refusal :=
  .next (event State.deferredDue s)

/-- The suspend expiry is due: one further status read decides (R70). -/
def execSuspendLimitExpiry (status : Byte) (s : State) : Host.Outcome State Fault Refusal :=
  .next (event (fun s => s.suspendLimit status) s)

/-- The busy ticks used have reached the time limit: a flash timeout (R69). -/
def execTimeLimitExpiry (s : State) : Host.Outcome State Fault Refusal :=
  .next (event State.timeLimit s)

/-- The wake end is due (R78, R183). -/
def execWakeEnd (status : Byte) (s : State) : Host.Outcome State Fault Refusal :=
  .next (event (fun s => s.wakeEndDue status) s)

/-- The start-up wait limit is due (R183, R185). -/
def execStartupWaitLimit (s : State) : Host.Outcome State Fault Refusal :=
  .next (event State.startupLimitDue s)

end Sys2Proof.Machine
end

