-- ==== Sys2Proof/Machine/PinEvents.lean ====
section
/-! DEFINITION. The meanings of the commands of supply, pins and power transitions (chapters 7 and 10). -/

namespace Sys2Proof.Machine

/-- Power comes on; power that was on is first lost (R182, log entry 12). -/
def execPowerOn (status : Byte) (s : State) : Host.Outcome State Fault Refusal :=
  .next (event (fun s => (if s.powered then s.losePower else s).gainPower status) s)

/-- The RESET pin is asserted (R84, R182). -/
def execResetPinAssertion (s : State) : Host.Outcome State Fault Refusal :=
  .next (event State.assertReset s)

/-- The RESET pin is released (R182). -/
def execResetPinRelease (status : Byte) (s : State) : Host.Outcome State Fault Refusal :=
  .next (event (fun s => s.releaseReset status) s)

/-- Power is lost (R56, R84, R180). -/
def execPowerLoss (s : State) : Host.Outcome State Fault Refusal :=
  .next (event State.losePower s)

/-- PWRWARN changes from low to high (R148). -/
def execPwrwarnAssertion (s : State) : Host.Outcome State Fault Refusal :=
  .next (event State.pwrwarnHigh s)

/-- PWRWARN changes from high to low (R151). -/
def execPwrwarnDeassertion (s : State) : Host.Outcome State Fault Refusal :=
  .next (event State.pwrwarnLow s)

/-- The drain completion condition holds (R143). -/
def execDrainCompletion (s : State) : Host.Outcome State Fault Refusal :=
  .next (event (fun s => if s.drainDue then s.completeDrain else s) s)

/-- The SAFE condition holds in EMERGENCY (R149). -/
def execSafeConditionMet (s : State) : Host.Outcome State Fault Refusal :=
  .next (event (fun s => if s.safeDue then s.enterSafe else s) s)

/-- An accepted soft reset takes effect once the sequencer's part is done (R176). -/
def execSoftResetTakesEffect (s : State) : Host.Outcome State Fault Refusal :=
  .next (event (fun s => if s.softResetDue then s.softResetEffect else s) s)

/-- Fuse programming ends; the bits of `failed` did not take (R179). -/
def execFuseProgrammingCompletion (failed : List Byte) (s : State) : Host.Outcome State Fault Refusal :=
  .next (event (fun s => s.completeFuses failed) s)

end Sys2Proof.Machine
end

