-- ==== Sys2Proof/Machine/PortEvents.lean ====
section
/-! DEFINITION. The meanings of the commands of the port: requests, answers, releases (chapter 4). -/

namespace Sys2Proof.Machine

/-- A read is presented and, while the lane has room, accepted and taken through its stages (R84, R85, R87). -/
def execReadRequest (line : Addr) (offset length : Nat) (s : State) : Host.Outcome State Fault Refusal :=
  .next (event (fun s => s.presentRead line offset length) s)

/-- A write is presented, the GUARD line standing at `guard`; a free lane accepts it and takes it through its stages, control recognition first (R84, R95, R166). -/
def execWriteRequest (line : Addr) (offset : Nat) (bytes : List (Option Byte)) (guard : Bool) (s : State) : Host.Outcome State Fault Refusal :=
  .next (event (fun s => (s.setGuard guard).presentWrite { line := line, offset := offset, bytes := bytes }) s)

/-- The oldest read is answered if it is RESOLVED, and every RESOLVED read behind it (R86). -/
def execReadAnswer (s : State) : Host.Outcome State Fault Refusal :=
  .next (event (fun s => if s.canAnswer then s.answerOldest else s) s)

/-- Reads whose hazard has ended continue from the overlay stage (R88). -/
def execHazardRelease (s : State) : Host.Outcome State Fault Refusal :=
  .next (event State.releaseHazards s)

/-- A write whose hold cause has ended continues from its next stage (R95, R98). -/
def execWriteRelease (s : State) : Host.Outcome State Fault Refusal :=
  .next (event (fun s => if s.canReleaseWrite then s.releaseWrite else s) s)

end Sys2Proof.Machine
end

