-- ==== Sys2Proof/Machine/TimerEvents.lean ====
section
/-! DEFINITION. The meanings of the commands of the timebase and the timers (chapters 2, 4, 6, 7, 8, 9). -/

namespace Sys2Proof.Machine

/-- A tick (R155, R156). -/
def execTick (status : Byte) (s : State) : Host.Outcome State Fault Refusal :=
  .next (event (fun s => s.oneTick status) s)

/-- The idle timer of an entry is due (R32). -/
def execIdleTimerExpiry (entry : Nat) (s : State) : Host.Outcome State Fault Refusal :=
  .next (event (fun s => s.idleExpired entry) s)

/-- The age timer of an entry is due (R34). -/
def execAgeTimerExpiry (entry : Nat) (s : State) : Host.Outcome State Fault Refusal :=
  .next (event (fun s => s.ageExpired entry) s)

/-- The hold timer of a held write is due (R99). -/
def execHoldTimerExpiry (s : State) : Host.Outcome State Fault Refusal :=
  .next (event State.holdExpired s)

/-- The stale timer of a queue is due (R131). -/
def execStaleTimerExpiry (queue : QueueName) (s : State) : Host.Outcome State Fault Refusal :=
  .next (event (fun s => s.staleExpired queue) s)

/-- The drain timer is due (R144). -/
def execDrainTimerExpiry (s : State) : Host.Outcome State Fault Refusal :=
  .next (event State.drainExpired s)

/-- The reply overlay's lifetime is over (R171). -/
def execReplyLifetimeExpiry (s : State) : Host.Outcome State Fault Refusal :=
  .next (event State.overlayExpired s)

end Sys2Proof.Machine
end

