-- ==== Sys2Proof/Machine/Dispatch.lean ====
section
/-! DEFINITION. The one dispatch of a command to its meaning. -/

namespace Sys2Proof.Machine

def exec (i : Instr) (s : State) : Host.Outcome State Fault Refusal :=
  match i with
  | .readRequest line offset length => Sys2Proof.Machine.execReadRequest line offset length s
  | .writeRequest line offset bytes guard => Sys2Proof.Machine.execWriteRequest line offset bytes guard s
  | .readAnswer => Sys2Proof.Machine.execReadAnswer s
  | .hazardRelease => Sys2Proof.Machine.execHazardRelease s
  | .writeRelease => Sys2Proof.Machine.execWriteRelease s
  | .grant => Sys2Proof.Machine.execGrant s
  | .readComplete bytes => Sys2Proof.Machine.execReadComplete bytes s
  | .operationComplete status => Sys2Proof.Machine.execOperationComplete status s
  | .suspensionComplete status => Sys2Proof.Machine.execSuspensionComplete status s
  | .resumeBusy status => Sys2Proof.Machine.execResumeBusy status s
  | .deferredSuspension => Sys2Proof.Machine.execDeferredSuspension s
  | .suspendLimitExpiry status => Sys2Proof.Machine.execSuspendLimitExpiry status s
  | .timeLimitExpiry => Sys2Proof.Machine.execTimeLimitExpiry s
  | .tick status => Sys2Proof.Machine.execTick status s
  | .idleTimerExpiry entry => Sys2Proof.Machine.execIdleTimerExpiry entry s
  | .ageTimerExpiry entry => Sys2Proof.Machine.execAgeTimerExpiry entry s
  | .holdTimerExpiry => Sys2Proof.Machine.execHoldTimerExpiry s
  | .staleTimerExpiry queue => Sys2Proof.Machine.execStaleTimerExpiry queue s
  | .drainTimerExpiry => Sys2Proof.Machine.execDrainTimerExpiry s
  | .replyLifetimeExpiry => Sys2Proof.Machine.execReplyLifetimeExpiry s
  | .wakeEnd status => Sys2Proof.Machine.execWakeEnd status s
  | .startupWaitLimit => Sys2Proof.Machine.execStartupWaitLimit s
  | .powerOn status => Sys2Proof.Machine.execPowerOn status s
  | .resetPinAssertion => Sys2Proof.Machine.execResetPinAssertion s
  | .resetPinRelease status => Sys2Proof.Machine.execResetPinRelease status s
  | .powerLoss => Sys2Proof.Machine.execPowerLoss s
  | .pwrwarnAssertion => Sys2Proof.Machine.execPwrwarnAssertion s
  | .pwrwarnDeassertion => Sys2Proof.Machine.execPwrwarnDeassertion s
  | .drainCompletion => Sys2Proof.Machine.execDrainCompletion s
  | .safeConditionMet => Sys2Proof.Machine.execSafeConditionMet s
  | .identify line => Sys2Proof.Machine.execIdentify line s
  | .readStatus line clear guard => Sys2Proof.Machine.execReadStatus line clear guard s
  | .softReset line discard => Sys2Proof.Machine.execSoftReset line discard s
  | .softResetTakesEffect => Sys2Proof.Machine.execSoftResetTakesEffect s
  | .setTiming line settings => Sys2Proof.Machine.execSetTiming line settings s
  | .clearEvents line set => Sys2Proof.Machine.execClearEvents line set s
  | .setEventEnables line set => Sys2Proof.Machine.execSetEventEnables line set s
  | .setRule line rule guard => Sys2Proof.Machine.execSetRule line rule guard s
  | .readRule line index guard => Sys2Proof.Machine.execReadRule line index guard s
  | .setDefault line action capture guard => Sys2Proof.Machine.execSetDefault line action capture guard s
  | .setFence line size side invert guard => Sys2Proof.Machine.execSetFence line size side invert guard s
  | .setLock line lock guard => Sys2Proof.Machine.execSetLock line lock guard s
  | .setQueue line queue mode watermark => Sys2Proof.Machine.execSetQueue line queue mode watermark s
  | .fetchCapture line queue maximum => Sys2Proof.Machine.execFetchCapture line queue maximum s
  | .ackCapture line queue number => Sys2Proof.Machine.execAckCapture line queue number s
  | .fetchSlot line slot => Sys2Proof.Machine.execFetchSlot line slot s
  | .releaseSlot line slot => Sys2Proof.Machine.execReleaseSlot line slot s
  | .flush line scope sector => Sys2Proof.Machine.execFlush line scope sector s
  | .listFaults line => Sys2Proof.Machine.execListFaults line s
  | .faultRetry line sector => Sys2Proof.Machine.execFaultRetry line sector s
  | .faultDiscard line sector => Sys2Proof.Machine.execFaultDiscard line sector s
  | .setFlashPolicy line policy => Sys2Proof.Machine.execSetFlashPolicy line policy s
  | .sleep line => Sys2Proof.Machine.execSleep line s
  | .wake line => Sys2Proof.Machine.execWake line s
  | .setPowerPolicy line sleepRead drainAbort deepSleep => Sys2Proof.Machine.execSetPowerPolicy line sleepRead drainAbort deepSleep s
  | .programFuse line group offset count data => Sys2Proof.Machine.execProgramFuse line group offset count data s
  | .fuseProgrammingCompletion failed => Sys2Proof.Machine.execFuseProgrammingCompletion failed s
  | .lockFuse line group => Sys2Proof.Machine.execLockFuse line group s
  | .unknownCommand line code => Sys2Proof.Machine.execUnknownCommand line code s

end Sys2Proof.Machine
end

