-- ==== Sys2Proof/Machine/Step.lean ====
section
/-! DEFINITION. One step of the block: the command at the front of the queue, or one microsecond when the queue is empty. -/

namespace Sys2Proof.Machine

/-- The state with the queue's rest: what a command at the front is run on. -/
def State.withPending (s : State) (q : List Instr) : State := { s with pending := q }

/-- One step. The command at the front is run on the state with the queue's rest; on an empty queue one
microsecond passes (R155, log entry 4). -/
def step (s : State) : Host.Outcome State Fault Refusal :=
  match s.pending with
  | [] => .next (event State.microsecond s)
  | c :: rest => exec c (s.withPending rest)

/-- The state with the command a word spells put at the front of its queue; unchanged where it spells none.
No row of the table gives bits, so no word spells one. -/
def State.withFetchWord (s : State) (nbits w : Nat) : State :=
  match Sys2Proof.decodeTableWord nbits w with
  | some i => s.withPending (i :: s.pending)
  | none => s

end Sys2Proof.Machine
end

