-- ==== Sys2Proof/WellFormed.lean ====
section
/-! DEFINITION. Well-formed commands: operands within the values the spec gives them. A meaning is total and does not rest on this check (log entry 16). -/

namespace Sys2Proof

/-- A line address: a multiple of 64 (R82). -/
def isLine (a : Addr) : Bool := a.toNat % Config.lineBytes == 0

/-- The codes of Table 11-4. -/
def commandCodes : List Byte :=
  [0x01, 0x02, 0x03, 0x10, 0x11, 0x12, 0x20, 0x21, 0x22, 0x23, 0x24, 0x30, 0x31, 0x32, 0x33, 0x34, 0x40, 0x41, 0x42,
   0x43, 0x50, 0x60, 0x61, 0x62, 0x70, 0x71]

/-- Whether a command's operands lie within the values the spec gives them. -/
def Instr.wf : Instr → Bool
  | .readRequest line offset length => isLine line && decide (offset < 64) && decide (1 ≤ length) && decide (length ≤ 64)
  | .writeRequest line offset bytes _ =>
    isLine line && decide (offset < 64) && decide (1 ≤ bytes.length) && decide (bytes.length ≤ 64)
  | .readAnswer => true
  | .hazardRelease => true
  | .writeRelease => true
  | .grant => true
  | .readComplete bytes => decide (bytes.length = 64) || decide (bytes.length = 256)
  | .operationComplete _ => true
  | .suspensionComplete _ => true
  | .resumeBusy _ => true
  | .deferredSuspension => true
  | .suspendLimitExpiry _ => true
  | .timeLimitExpiry => true
  | .tick _ => true
  | .idleTimerExpiry e => decide (e < Config.entryCount)
  | .ageTimerExpiry e => decide (e < Config.entryCount)
  | .holdTimerExpiry => true
  | .staleTimerExpiry _ => true
  | .drainTimerExpiry => true
  | .replyLifetimeExpiry => true
  | .wakeEnd _ => true
  | .startupWaitLimit => true
  | .powerOn _ => true
  | .resetPinAssertion => true
  | .resetPinRelease _ => true
  | .powerLoss => true
  | .pwrwarnAssertion => true
  | .pwrwarnDeassertion => true
  | .drainCompletion => true
  | .safeConditionMet => true
  | .identify line => isLine line
  | .readStatus line _ _ => isLine line
  | .softReset line _ => isLine line
  | .softResetTakesEffect => true
  | .setTiming line _ => isLine line
  | .clearEvents line _ => isLine line
  | .setEventEnables line _ => isLine line
  | .setRule line _ _ => isLine line
  | .readRule line _ _ => isLine line
  | .setDefault line _ _ _ => isLine line
  | .setFence line _ _ _ _ => isLine line
  | .setLock line _ _ => isLine line
  | .setQueue line _ _ _ => isLine line
  | .fetchCapture line _ _ => isLine line
  | .ackCapture line _ _ => isLine line
  | .fetchSlot line _ => isLine line
  | .releaseSlot line _ => isLine line
  | .flush line _ _ => isLine line
  | .listFaults line => isLine line
  | .faultRetry line _ => isLine line
  | .faultDiscard line _ => isLine line
  | .setFlashPolicy line _ => isLine line
  | .sleep line => isLine line
  | .wake line => isLine line
  | .setPowerPolicy line _ _ _ => isLine line
  | .programFuse line _ _ _ data => isLine line && decide (data.length ≤ 16)
  | .fuseProgrammingCompletion failed => decide (failed.length ≤ 16)
  | .lockFuse line _ => isLine line
  | .unknownCommand line code => isLine line && !commandCodes.contains code

end Sys2Proof
end

