-- ==== Sys2Proof/Safety.lean ====
section
/-! DEFINITION. What the statements speak of: a part at rest, a part that takes a control record, and the laws of the spec as predicates on State. -/

namespace Sys2Proof.Machine

/-! ### At rest -/

/-- Nothing is left of an event: no effect that the rules place in the same event is due (log entry 1). -/
def State.atRest (s : State) : Prop := settleOnce s = none

/-- A control record at a line is accepted, recognised and executed in one event: the part is at rest, the
write lane open and empty, the working enable set with an eight-byte key (R166), the line inside the window
(R82, R83), and no read holds bytes of an overlay that the record would end (R92, R171). -/
structure State.ReadyFor (s : State) (line : Addr) : Prop where
  rest : s.atRest
  lanes : s.port.lanesOpen = true
  free : s.port.write = none
  enabled : s.control.enable = true
  key : s.control.key.length = 8
  inside : s.pastWindow (lineOf line) 0 64 = false
  reads : s.port.reads.all (fun r => !r.fromOverlay) = true

/-- The state in which the command of a control record is executed: the record is the write in progress, the
overlay is absent (R168). -/
def State.executing (s : State) (line : Addr) (code : Byte) (args : List Byte) : State :=
  { s with
    port := { s.port with
      write := some { req := controlRecord s.control.key (lineOf line) code args, accepted := s.now, hold := none,
                      stage := .control, decision := none } },
    control := { s.control with overlay := none } }

/-- A command's event comes to a state, with room for the effects that may still be due in it. -/
def Runs (c : Instr) (s x : State) : Prop := ∃ n, 96 ≤ n ∧ exec c s = .next (settleN n x)

/-- A command's event reaches a state: within the event the part comes to `x`, with room for the effects that
may still be due in it, and when none is due `x` is the next state. -/
def Reaches (c : Instr) (s x : State) : Prop :=
  Runs c s x ∧ (x.atRest → exec c s = .next x)

/-- The answer OK of a control record at a line (R168). -/
def recordAnswer (line : Addr) : Answer :=
  { access := .write, line := lineOf line, offset := 0, length := 64, result := .ok [] }

/-- The reply of a control record at a line is placed and the record answered OK (R168, R170). -/
def State.replied (s : State) (line : Addr) (code : Byte) (r : Reply) : State :=
  (s.withControl { s.control with overlay := some (replyOverlay s (lineOf line) code r) }).giveAnswer (recordAnswer line)

/-- A refusal's reply. -/
def State.repliedRefused (s : State) (line : Addr) (code : Byte) (st : Status) (payload : List Byte) : State :=
  s.replied line code (refusedReply st payload)

/-- An accepted reply. -/
def State.repliedAccepted (s : State) (line : Addr) (code : Byte) (payload : List Byte) : State :=
  s.replied line code (acceptedReply payload)

/-- How many bytes of the record, from byte 9 on, are arguments of a command (Table 11-4); of PROGRAM-FUSE's data the
count's number are used. -/
def argumentBytes (code : Byte) : Nat :=
  match code.toNat with
  | 0x02 => 1 | 0x03 => 1 | 0x10 => 21 | 0x11 => 4 | 0x12 => 4 | 0x20 => 13 | 0x21 => 1 | 0x22 => 2 | 0x23 => 3 | 0x24 => 1
  | 0x30 => 3 | 0x31 => 2 | 0x32 => 5 | 0x33 => 1 | 0x34 => 1 | 0x40 => 3 | 0x42 => 2 | 0x43 => 2 | 0x50 => 6 | 0x62 => 3
  | 0x70 => 19 | 0x71 => 1
  | _ => 0

/-- Which rows of Table 8-1 are in range, in the table's order (R158). -/
def timingRows (t : TimingSettings) : List Bool :=
  [decide (1 ≤ t.prescaler.toNat ∧ t.prescaler.toNat ≤ 1000), true, true, decide (1 ≤ t.holdLimit.toNat), true, true,
   decide (1 ≤ t.drainLimit.toNat), decide (1 ≤ t.replyLifetime.toNat), decide (1 ≤ t.programLimit.toNat),
   decide (1 ≤ t.eraseLimit.toNat), decide (1 ≤ t.suspendLimit.toNat)]

/-- The rule record by which SET-RULE carries a rule at an index (Table 11-7): the fields' codes, and the two
addresses as given. -/
def ruleRecordOf (i : Nat) (r : Rule) : RuleArgs :=
  { index := byteOf i, flags := bitsByte [r.enabled, r.captureData, r.urgent], kind := r.kind.code,
    applies := r.applies.code, action := r.action.code, slot := byteOf r.slot, capture := targetCode r.capture,
    addr1 := r.addr1, addr2 := r.addr2 }

/-- The state after an effect and the grant the IDLE sequencer then makes in the same event, if it has an
eligible claim (R63). -/
def State.granted (s : State) : State := if s.canGrant then s.grantNext else s

/-- The part runs, and no timer of any block falls due at the next increment, whose tick is the present one plus
one (R156); the busy ticks stay below the time limit (R69). -/
structure State.NoneDue (s : State) : Prop where
  running : s.running = true
  wake : s.seq.st ≠ .waking (s.now + 1)
  startup : ∀ r, s.seq.st ≠ .startupWait (s.now + 1) r
  suspend : ∀ o, s.seq.st ≠ .suspending o (s.now + 1)
  deferred : s.seq.deferred ≠ some (s.now + 1)
  limit : ∀ op, s.seq.st.counting? = some op → op.busyTicks + 1 < op.timeLimit
  hold : ∀ w c, s.port.write = some w → w.stage = .held c → w.hold ≠ some (s.now + 1)
  idle : ∀ i, (s.staging.entry i).idleExpiry ≠ some (s.now + 1)
  age : ∀ i, (s.staging.entry i).ageExpiry ≠ some (s.now + 1)
  stale : ∀ q, (s.capture.queue q).staleExpiry ≠ some (s.now + 1)
  drain : s.power.st = .drain → s.power.drainExpiry ≠ some (s.now + 1)
  reply : ∀ o, s.control.overlay = some o → o.expiry ≠ s.now + 1

/-! ### The law of timers (R156) -/

/-- The operation of an ERASE or PROGRAM in flight, suspended or not (Table 3-3). -/
def SeqState.operation? : SeqState → Option FlashOp
  | .busy op => some op
  | .suspending op _ => some op
  | .suspended op _ => some op
  | .resuming op => some op
  | _ => none

/-- Every timer expires in the event of the increment that reaches its tick (R156), so between events none is due
at the present tick, and no operation's busy ticks have reached its time limit (R69). The first two clauses hold of
what sets a timer: every timing setting lies in its range (R158), the resume spacing is at most 255 (R79). -/
structure State.TimerLaw (s : State) : Prop where
  settings : (timingRows s.time.timing).all id = true
  spacing : s.seq.policy.resumeSpacing ≤ 255
  wake : s.seq.st ≠ .waking s.now
  startup : ∀ r, s.seq.st ≠ .startupWait s.now r
  suspend : ∀ o, s.seq.st ≠ .suspending o s.now
  deferred : s.seq.deferred ≠ some s.now
  limit : ∀ op, s.seq.st.operation? = some op → op.busyTicks < op.timeLimit
  hold : ∀ w c, s.port.write = some w → w.stage = .held c → w.hold ≠ some s.now
  idle : ∀ i, i < Config.entryCount → (s.staging.entry i).idleExpiry ≠ some s.now
  age : ∀ i, i < Config.entryCount → (s.staging.entry i).ageExpiry ≠ some s.now
  stale : ∀ q, (s.capture.queue q).staleExpiry ≠ some s.now
  drain : s.power.st = .drain → s.power.drainExpiry ≠ some s.now
  reply : ∀ o, s.control.overlay = some o → o.expiry ≠ s.now

/-! ### The capture law (R124) -/

/-- A queue holds at most its capacity counting the reserved place, and its records run in consecutive
sequence numbers up to the next number (R124). -/
def CaptureQueue.lawful (n : QueueName) (q : CaptureQueue) : Prop :=
  q.occupancy ≤ Config.queueCapacity n ∧
  ∀ i r, q.records[i]? = some r → r.number = q.next - BitVec.ofNat 32 (q.records.length - i)

/-- Both queues are lawful. -/
def State.CaptureLaw (s : State) : Prop := s.capture.a.lawful .a ∧ s.capture.b.lawful .b

/-! ### The staging law (R1 to R4, R37, R38) -/

/-- A write request lies within one line (R82). -/
def WriteReq.fits (w : WriteReq) : Prop := w.line.toNat % 64 = 0 ∧ w.offset + w.bytes.length ≤ 64

/-- The page a READ in flight fills, if it fills one. -/
def SeqState.fillingPage : SeqState → Option Nat
  | .reading (.fillPage _ p) => some p
  | _ => none

/-- The staging table is lawful: 16 entries; every image in its canonical form; a CLEAN entry's images are
equal (R3); no sector twice (R2); the close queue lists exactly the CLOSED entries, each once (R37); at most
one entry is COMMITTING (R38). The last three clauses hold of what can reach the table: page numbers below
16, a held write within its line, waiting writes at line addresses. -/
structure State.StagingLaw (s : State) : Prop where
  count : s.staging.entries.length = Config.entryCount
  images : ∀ e ∈ s.staging.entries, ∀ d, e.data? = some d → Memory.wf d.base = true ∧ Memory.wf d.work = true
  clean : ∀ d, Entry.clean d ∈ s.staging.entries → d.work = d.base
  sectors : (s.staging.entries.filterMap Entry.sector?).Nodup
  queued : s.staging.closeQueue.Nodup
  queue : ∀ i, i ∈ s.staging.closeQueue ↔ (s.staging.entry i).isClosed = true
  committing : s.staging.entries.countP Entry.isCommitting ≤ 1
  fills : ∀ f ∈ s.seq.fills, f.page < Config.sectorPages
  page : ∀ p, s.seq.st.fillingPage = some p → p < Config.sectorPages
  write : ∀ w, s.port.write = some w → w.req.fits
  waiting : ∀ w ∈ s.port.waitWrites, w.line.toNat % 64 = 0

/-! ### The law of SLEEP (R143) -/

/-- A write held at a stage whose release leads straight to a merge. -/
def State.mergeHeld (s : State) : Bool :=
  match s.port.write with
  | some { stage := .held .noEntry, .. } => true
  | some { stage := .held .committing, .. } => true
  | _ => false

/-- Whether the sequencer is in STARTUP_WAIT (R183). -/
def SeqState.inStartupWait : SeqState → Bool
  | .startupWait _ _ => true
  | _ => false

/-- In SLEEP, and in DRAIN with a sleep request outstanding, no entry holds unwritten data and no write waits
to merge; a sleep request is outstanding in DRAIN alone (R143), and STARTUP_WAIT is a state of STARTING alone
(R183). -/
structure State.SleepLaw (s : State) : Prop where
  request : s.seq.powerReq = some .sleep → s.power.st = .drain
  asleep : s.power.st = .sleep → s.unwritten = false ∧ s.mergeHeld = false
  outstanding : s.seq.powerReq = some .sleep → s.unwritten = false ∧ s.mergeHeld = false
  startup : s.seq.st.inStartupWait = true → s.power.st = .starting

/-! ### Sizes -/

/-- Every table has its size (00_scope Table 3; R85, R108, R124, R136, R177). -/
structure State.SizeLaw (s : State) : Prop where
  entries : s.staging.entries.length = Config.entryCount
  rules : s.rule.rules.length = Config.ruleCount
  slots : s.capture.slots.length = Config.slotCount
  reads : s.port.reads.length ≤ Config.readLaneSize
  key : s.control.key.length = 8
  keyFuses : s.fuses.key.length = 9
  profileFuses : s.fuses.profile.length = 16
  fenceFuses : s.fuses.fence.length = 1

/-! ### The stages of a request, as relations (R87 to R91, R95 to R98, Table 1-4) -/

/-- Where a read goes from the overlay stage on (R83, R89, R27, R28, R90): the states it may lead to, case by
case. -/
inductive Continues (s : State) (tag : Nat) (req : ReadReq) : State → Prop
  | overlay (bs : List Byte) : s.overlayBytes req = some bs →
      Continues s tag req (s.setStage tag (.resolved (.ok bs .overlay)))
  | unconfigured : s.overlayBytes req = none → s.power.st = .unconfigured →
      Continues s tag req (s.setStage tag (.resolved (.err .unconfigured)))
  | filling (i : Nat) (d : Sector) (f : Filling) : s.overlayBytes req = none → s.power.st ≠ .unconfigured →
      s.staging.find (sectorOf req.line) = some i → s.staging.entry i = .filling d f →
      Continues s tag req (s.setStage tag .waitingFill)
  | hit (i : Nat) (d : Sector) : s.overlayBytes req = none → s.power.st ≠ .unconfigured →
      s.staging.find (sectorOf req.line) = some i →
      (s.staging.entry i).data? = some d → (s.staging.entry i).isFilling = false →
      Continues s tag req ((s.withStaging (s.staging.touch s.now i)).setStage tag
        (.resolved (.ok (imgSpan d.work (sectorOffset req.line req.offset) req.length) (.entry i))))
  | stalled : s.overlayBytes req = none → s.power.st ≠ .unconfigured → s.staging.find (sectorOf req.line) = none →
      s.seq.st = .stalled → Continues s tag req (s.setStage tag (.resolved (.err .flashUnavailable)))
  | asleep : s.overlayBytes req = none → s.staging.find (sectorOf req.line) = none → s.seq.st = .asleep →
      (s.power.st = .safe ∨ (s.power.st = .sleep ∧ s.power.policy.refuseInSleep = true)) →
      Continues s tag req (s.setStage tag (.resolved (.err .deniedPower)))
  | wakes : s.overlayBytes req = none → s.staging.find (sectorOf req.line) = none → s.seq.st = .asleep →
      s.power.st = .sleep → s.power.policy.refuseInSleep = false →
      Continues s tag req (((s.setStage tag .miss).missArrives tag).wakePart)
  | miss : s.overlayBytes req = none → s.power.st ≠ .unconfigured → s.staging.find (sectorOf req.line) = none →
      s.seq.st ≠ .stalled → (s.seq.st = .asleep → s.power.st ≠ .sleep ∧ s.power.st ≠ .safe) →
      Continues s tag req ((s.setStage tag .miss).missArrives tag)

/-- Where reads that continue from the overlay stage go, one after the other (R88). -/
inductive ContinueInTurn : State → List Read → State → Prop
  | done (s : State) : ContinueInTurn s [] s
  | goesOn (s y x : State) (r q : Read) (rest : List Read) : s.readOf r.tag = some q → Continues s r.tag q.req y →
      ContinueInTurn y rest x → ContinueInTurn s (r :: rest) x

/-- Where reads resolved afresh go, one after the other: to the hazard wait, or on from the overlay stage (R92). -/
inductive ResolvesAfresh : State → List Read → State → Prop
  | done (s : State) : ResolvesAfresh s [] s
  | waits (s x : State) (r q : Read) (rest : List Read) : s.readOf r.tag = some q → s.hazard q.req.line = true →
      ResolvesAfresh (s.setStage r.tag .waitingHazard) rest x → ResolvesAfresh s (r :: rest) x
  | goesOn (s y x : State) (r q : Read) (rest : List Read) : s.readOf r.tag = some q → s.hazard q.req.line = false →
      Continues s r.tag q.req y → ResolvesAfresh y rest x → ResolvesAfresh s (r :: rest) x

/-- A write held for a cause. -/
def State.heldFor (s : State) (w : WriteInProgress) (c : HoldCause) : State := s.setWrite (some { w with stage := .held c })

/-- Where a write goes at the staging stage (Table 1-4, R10, R15, R18 to R20). -/
inductive Stages (s : State) (w : WriteInProgress) : State → Prop
  | merge (i : Nat) (e : Entry) : s.staging.find (sectorOf w.req.line) = some i →
      mergeEntry s.now s.time.timing w.req.sectorOff w.req.bytes (s.staging.entry i) = some e →
      Stages s w (s.landWrite w i e)
  | committing (i : Nat) : s.staging.find (sectorOf w.req.line) = some i →
      (s.staging.entry i).isCommitting = true → Stages s w (s.heldFor w .committing)
  | faulted (i : Nat) : s.staging.find (sectorOf w.req.line) = some i →
      (s.staging.entry i).isFaulted = true → Stages s w (s.refuseWrite w .deniedMedia)
  | allocate (i : Nat) : s.staging.find (sectorOf w.req.line) = none → s.staging.place s.now = some i →
      Stages s w ((s.withSeq { s.seq with fills := s.seq.fills ++ [{ sector := sectorOf w.req.line, page := 0 }] }).landWrite
        w i (allocatedEntry s.now s.time.timing (sectorOf w.req.line) w.req.sectorOff w.req.bytes))
  | pressure (i : Nat) : s.staging.find (sectorOf w.req.line) = none → s.staging.place s.now = none →
      w.stage ≠ .held .noEntry → s.staging.pressureEntry s.now = some i →
      Stages s w ((s.withStaging (s.staging.close .pressure i)).heldFor w .noEntry)
  | noEntry : s.staging.find (sectorOf w.req.line) = none → s.staging.place s.now = none →
      (w.stage = .held .noEntry ∨ s.staging.pressureEntry s.now = none) → Stages s w (s.heldFor w .noEntry)

/-- The decision of the write in progress (R97). -/
def State.writeDecision (s : State) (w : WriteInProgress) : Decision := s.decisionFor .write w.req.line

/-- The state after the decision: an urgent one is noted (R112). -/
def State.decided (s : State) (w : WriteInProgress) : State := s.noteUrgent (s.writeDecision w)

/-- The write with its decision. -/
def State.withDecision (s : State) (w : WriteInProgress) : WriteInProgress := { w with decision := some (s.writeDecision w) }

/-- No stage from the fence to the faulted-sector check refuses the write (R97, R105, R10). -/
def State.passesRules (s : State) (w : WriteInProgress) : Prop :=
  s.inFence w.req.line = false ∧ (s.writeDecision w).action ≠ .deny ∧ s.sectorFaulted w.req.line = false

/-- Where a write goes from the fence stage on (R97, R105, R10, R126). -/
inductive Decides (s : State) (w : WriteInProgress) : State → Prop
  | fence : s.inFence w.req.line = true → Decides s w ((s.decided w).refuseWrite (s.withDecision w) .deniedFence)
  | denied : s.inFence w.req.line = false → (s.writeDecision w).action = .deny →
      Decides s w ((s.decided w).refuseWrite (s.withDecision w) .deniedRule)
  | media : s.inFence w.req.line = false → (s.writeDecision w).action ≠ .deny → s.sectorFaulted w.req.line = true →
      Decides s w ((s.decided w).refuseWrite (s.withDecision w) .deniedMedia)
  | noSpace (q : QueueName) : s.passesRules w → (s.writeDecision w).capture = some q →
      (s.capture.queue q).mode = .strict → Config.queueCapacity q ≤ (s.capture.queue q).occupancy →
      Decides s w ((s.decided w).heldFor (s.withDecision w) .captureSpace)
  | strict (q : QueueName) (x : State) : s.passesRules w → (s.writeDecision w).capture = some q →
      (s.capture.queue q).mode = .strict → (s.capture.queue q).occupancy < Config.queueCapacity q →
      Stages ((s.decided w).reserve q) (s.withDecision w) x → Decides s w x
  | plain (x : State) : s.passesRules w →
      (∀ q, (s.writeDecision w).capture = some q → (s.capture.queue q).mode ≠ .strict) →
      Stages (s.decided w) (s.withDecision w) x → Decides s w x

/-- Where an ordinary write goes from the power-state check on (R96, R83). -/
inductive Admits (s : State) (w : WriteInProgress) : State → Prop
  | run (x : State) : s.power.st = .run → Decides s w x → Admits s w x
  | drain (x : State) : s.power.st = .drain → s.power.policy.drainAbort = false → Decides s.withdrawSleep w x →
      Admits s w x
  | abort (x : State) : s.power.st = .drain → s.power.policy.drainAbort = true →
      Decides (s.abandonDrain .activity) w x → Admits s w x
  | wakes : s.power.st = .sleep → s.power.policy.refuseInSleep = false → Admits s w (s.wakePart.heldFor w .waking)
  | waits : (s.power.st = .waking ∨ s.power.st = .starting) → Admits s w (s.heldFor w .waking)
  | refused : (s.power.st = .emergency ∨ s.power.st = .safe ∨ (s.power.st = .sleep ∧ s.power.policy.refuseInSleep = true)) →
      Admits s w (s.refuseWrite w .deniedPower)
  | unconfigured : s.power.st = .unconfigured → Admits s w (s.refuseWrite w .unconfigured)

/-- A write request is accepted in its own event: the part is at rest, the write lane open and empty. -/
structure State.ReadyToWrite (s : State) : Prop where
  rest : s.atRest
  lanes : s.port.lanesOpen = true
  free : s.port.write = none

/-- The write in progress as it is accepted (R94). -/
def State.accepted (s : State) (req : WriteReq) : WriteInProgress :=
  { req := req, accepted := s.now, hold := some (s.now + s.time.timing.holdLimit.setWidth 32), stage := .taking, decision := none }

/-- Whether a write request fails the span and window check (R82). -/
def State.badSpan (s : State) (req : WriteReq) : Bool :=
  crossesLine req.offset req.bytes.length || !selectsByte req.bytes || s.pastWindow req.line req.offset req.bytes.length

/-! ### Power-on values (R182) -/

/-- Every block at its power-on values: tables empty, settings at their defaults, lanes closed, the power state
STARTING (R182). Kept are the fuse array, the levels of PWRWARN and GUARD, the requests on the interconnect, the
pins, and, until the fuses are read, the key, the enable and the fence (log entries 5, 7 and 12). -/
def State.blank (s : State) : State :=
  { port := { reads := [], write := none, lastRefusal := none, lanesOpen := false, waitReads := s.port.waitReads,
              waitWrites := s.port.waitWrites },
    control := { key := s.control.key, enable := s.control.enable, overlay := none, softReset := false },
    rule := { fence := s.rule.fence, rules := List.replicate Config.ruleCount Rule.zero, defaultDeny := false,
              defaultCapture := none, lock := .unlocked, lastUrgent := none, guard := s.rule.guard },
    capture := CaptureUnit.initial,
    staging := { entries := List.replicate Config.entryCount .free, closeQueue := [], retry := 0 },
    seq := { st := .idle, misses := [], fills := [], powerReq := none, share := 0, deferred := none,
             policy := FlashPolicy.default },
    power := { st := .starting, policy := PowerPolicy.default, drainExpiry := none, lastDrain := none,
               pwrwarn := s.power.pwrwarn },
    time := { tick := 0, subTick := 0, timing := TimingSettings.default },
    events := { flags := 0, enables := eventMask .mediaFault ||| eventMask .flashStall ||| eventMask .powerWarning },
    fuses := s.fuses, profile := none, powered := s.powered, resetHeld := s.resetHeld, answers := [], link := [],
    draws := s.draws, pending := s.pending }

/-- The fuse array read at start-up (R182, Table 11-12): the working key and enable, the working fence, and the
profile in use as given. -/
def State.fusesRead (s : State) (profile : Option (List Byte)) : State :=
  { s with
    control := { s.control with key := s.fuses.key.take 8, enable := (byteAt s.fuses.key 8).getLsbD 0 },
    rule := { s.rule with fence :=
      { size := (byteAt s.fuses.fence 0).toNat % 8, side := if (byteAt s.fuses.fence 0).getLsbD 3 then .high else .low,
        invert := (byteAt s.fuses.fence 0).getLsbD 4 } },
    profile := profile }

end Sys2Proof.Machine

namespace Sys2Proof

/-- A command that starts or ends the supply or moves the RESET pin: the only commands that run start-up or
lose the blocks' state (R182). -/
def Instr.restarts : Instr → Bool
  | .powerOn _ => true
  | .powerLoss => true
  | .resetPinAssertion => true
  | .resetPinRelease _ => true
  | _ => false

end Sys2Proof
end

