-- ==== Sys2Proof/Certificates/Slice0/Obligations.lean ====
section
/-! DEFINITION. The statements for the provers. `Reaches c s x` says that the event of command `c` comes to state `x`, which is the next state when nothing else is due in it (Safety.lean). -/

open Sys2Proof Sys2Proof.Machine

/-! ### The step, the event, reset -/

/-- A step runs the command at the front of the queue, on the state with the queue's rest. -/
def Obligations.StepRunsTheFrontCommand : Prop :=
  ∀ (c : Instr) (rest : List Instr) (s : State), s.pending = c :: rest → step s = exec c (s.withPending rest)

/-- On an empty queue one microsecond passes (the model's choice, log entry 4): in a running part at rest the
sub-tick count grows by one while that stays below the prescaler (R155), and nothing else changes but the
outputs of the event before. The microsecond that reaches the prescaler increments the tick counter and zeroes the
sub-tick count; it draws one free value, the status no command carries (log entries 4 and 9). A part without power, or
held in reset, counts nothing. -/
def Obligations.EmptyQueueIsAMicrosecond : Prop :=
  ∀ s : State, s.pending = [] → s.atRest →
    (s.running = true → s.time.subTick + 1 < s.time.timing.prescaler.toNat →
      step s = .next (s.clearOut.withTime { s.time with subTick := s.time.subTick + 1 })) ∧
    (s.NoneDue → s.time.timing.prescaler.toNat ≤ s.time.subTick + 1 →
      (∀ op, s.seq.st ≠ .busy op) → (∀ op, s.seq.st ≠ .resuming op) → s.seq.st ≠ .stalled →
      (∀ t r, s.seq.st ≠ .startupWait t r) →
      step s = .next (s.clearOut.withTime { tick := s.time.tick + 1, subTick := 0, timing := s.time.timing }).draw) ∧
    (s.running = false → step s = .next s.clearOut)

/-- Every command answers a next state, and leaves the commands still waiting as they are. An event settles one effect after another in the order of log entry 1: an effect that is due is made, and
an event in which nothing is due is over. The oldest read, once RESOLVED, is answered before a waiting write is accepted,
and the waiting read it makes room for is accepted with its answer (R86). -/
def Obligations.EventsSettleEffectByEffect : Prop :=
  (∀ (c : Instr) (s : State), ∃ t, exec c s = .next t ∧ t.pending = s.pending) ∧
  ((∀ (s s' : State) (n : Nat), settleOnce s = some s' → settleN (n + 1) s = settleN n s') ∧
   (∀ (s : State) (n : Nat), s.atRest → settleN n s = s) ∧
   (∀ (s : State), s.atRest ↔
     s.softResetDue = false ∧ s.canReleaseWrite = false ∧ s.canReleaseHazard = false ∧ s.sleepSpoiled = false ∧
     s.canGrant = false ∧ s.canAnswer = false ∧ s.drainDue = false ∧ s.safeDue = false ∧ s.canPlaceReply = false ∧
     s.canAcceptRead = false ∧ s.canAcceptWrite = false) ∧
   (∀ (s : State) (r : Read) (rest : List Read) (x : ReadResult), s.port.reads = r :: rest → r.stage = .resolved x →
     s.softResetDue = false → s.canReleaseWrite = false → s.canReleaseHazard = false → s.sleepSpoiled = false →
     s.canGrant = false → s.drainDue = false → s.safeDue = false → s.canPlaceReply = false →
     let answered := (s.setReads rest).answerRead r x
     settleOnce s = some (if s.port.lanesOpen = true ∧ answered.port.reads.length < 4 ∧ s.port.waitReads ≠ [] then
       answered.acceptNextRead else answered)))

/-- The values of reset. Those the spec gives: tables empty (R30, R49, R81, R103, R140, R165), policies, timing
and events at their defaults (R79, R152, R157, R164), rules zeroed and OPEN (R120), the fuse array as delivered, with
CONTROL_ENABLE alone programmed (R177), and no soft reset accepted. The part stands as its delivered fuses leave it, UNCONFIGURED with the lanes open (R182; the model's
reading, log entry 10), with the levels of PWRWARN and GUARD low (the model's choice, log entry 7). -/
def Obligations.ResetValues : Prop :=
  State.reset.staging.entries = List.replicate 16 Entry.free ∧ State.reset.staging.closeQueue = [] ∧
  State.reset.staging.retry = 0 ∧ State.reset.seq.st = .idle ∧ State.reset.seq.misses = [] ∧ State.reset.seq.fills = [] ∧
  State.reset.seq.powerReq = none ∧ State.reset.seq.share = 0 ∧ State.reset.seq.deferred = none ∧
  State.reset.seq.policy = { suspendEnable := true, eraseBudget := 3, programBudget := 1, resumeSpacing := 10,
                             verifyEnable := true, commitShare := 16 } ∧
  State.reset.port.reads = [] ∧ State.reset.port.write = none ∧ State.reset.port.lastRefusal = none ∧
  State.reset.rule.fence = { size := 0, side := .low, invert := false } ∧
  State.reset.rule.rules = List.replicate 24 Rule.zero ∧ State.reset.rule.defaultDeny = false ∧
  State.reset.rule.defaultCapture = none ∧ State.reset.rule.lock = .unlocked ∧ State.reset.rule.lastUrgent = none ∧
  State.reset.capture.a = { records := [], next := 0, mode := .lossy, watermark := 24, dropped := false,
                            reserved := false, staleExpiry := none } ∧
  State.reset.capture.b = { records := [], next := 0, mode := .lossy, watermark := 12, dropped := false,
                            reserved := false, staleExpiry := none } ∧
  State.reset.capture.slots = List.replicate 8 { isNew := false, record := none } ∧
  State.reset.power.st = .unconfigured ∧ State.reset.power.drainExpiry = none ∧ State.reset.power.lastDrain = none ∧
  State.reset.power.policy = { refuseInSleep := false, drainAbort := false, deepSleep := true } ∧
  State.reset.time.tick = 0 ∧ State.reset.time.subTick = 0 ∧
  State.reset.time.timing = { prescaler := 100, idleClose := 50, ageClose := 2000, holdLimit := 3000, staleA := 10000,
                              staleB := 10000, drainLimit := 20000, replyLifetime := 200, programLimit := 50, eraseLimit := 4000,
                              suspendLimit := 2 } ∧
  State.reset.events.flags = 0 ∧
  State.reset.events.enables = eventMask .mediaFault ||| eventMask .flashStall ||| eventMask .powerWarning ∧
  State.reset.control.overlay = none ∧ State.reset.control.key = List.replicate 8 0 ∧ State.reset.control.enable = true ∧
  State.reset.control.softReset = false ∧ State.reset.power.pwrwarn = false ∧ State.reset.rule.guard = false ∧
  State.reset.fuses = { key := [0, 0, 0, 0, 0, 0, 0, 0, 0x01], profile := List.replicate 16 0, fence := [0], keyLocked := false,
                        profileLocked := false, fenceLocked := false } ∧ State.reset.profile = none ∧ State.reset.port.lanesOpen = true ∧
  State.reset.irqLine = false ∧ State.reset.dirtyLine = false ∧ State.reset.pending = []

/-! ### Laws that every command and every step keeps -/

/-- The laws of the staging table, of the capture queues, of SLEEP, of timers and of sizes hold at reset. -/
def Obligations.LawsHoldAtReset : Prop :=
  State.reset.StagingLaw ∧ State.reset.CaptureLaw ∧ State.reset.SleepLaw ∧ State.reset.TimerLaw ∧ State.reset.SizeLaw

/-- Every step keeps the capture law (R124): each queue holds at most its capacity counting the reserved place,
in consecutive sequence numbers. -/
def Obligations.StepsKeepTheCaptureLaw : Prop :=
  ∀ s t : State, s.CaptureLaw → step s = .next t → t.CaptureLaw

/-- Every step keeps the staging law: images canonical, CLEAN images equal (R3), no sector twice (R2), the close
queue exactly the CLOSED entries (R37), at most one COMMITTING (R38). -/
def Obligations.StepsKeepTheStagingLaw : Prop :=
  ∀ s t : State, s.StagingLaw → step s = .next t → t.StagingLaw

/-- Every step keeps the law of SLEEP (R143): while the power state is SLEEP, no staging entry holds unwritten
data. -/
def Obligations.StepsKeepTheSleepLaw : Prop :=
  ∀ s t : State, s.SleepLaw → step s = .next t → t.SleepLaw

/-- Every step keeps the law of timers (R156, R69): no timer stays due after the event of the increment that reaches
its tick, and no operation's busy ticks stay at its time limit. -/
def Obligations.StepsKeepTheTimerLaw : Prop :=
  ∀ s t : State, s.TimerLaw → step s = .next t → t.TimerLaw

/-- Every step keeps the sizes of the tables. -/
def Obligations.StepsKeepTheSizes : Prop :=
  ∀ s t : State, s.SizeLaw → step s = .next t → t.SizeLaw

/-- While the rule lock state is FROZEN, the rule list, the default decision, the fence and the lock state stay
unchanged under every command but those that restart the part (R118). -/
def Obligations.FrozenKeepsTheRules : Prop :=
  ∀ (c : Instr) (s t : State), s.rule.lock = .frozen → c.restarts = false → exec c s = .next t →
    t.rule.rules = s.rule.rules ∧ t.rule.defaultDeny = s.rule.defaultDeny ∧
    t.rule.defaultCapture = s.rule.defaultCapture ∧ t.rule.fence = s.rule.fence ∧ t.rule.lock = .frozen

/-- Every command but those that restart the part keeps the fuse array growing only: no programmed bit is
cleared and no lock removed (R177, R181); and it keeps the working key and enable and the profile in use
(R165, R182). -/
def Obligations.FusesOnlyGainBits : Prop :=
  ∀ (c : Instr) (s t : State), c.restarts = false → exec c s = .next t →
    (∀ g i j, (byteAt (s.fuses.group g) i).getLsbD j = true → (byteAt (t.fuses.group g) i).getLsbD j = true) ∧
    (∀ g, s.fuses.locked g = true → t.fuses.locked g = true) ∧
    t.control.key = s.control.key ∧ t.control.enable = s.control.enable ∧ t.profile = s.profile

/-! ### Control records -/

/-- Every command row's record (built as log entry 8 says) is recognised and executed with exactly the operands of the row: each argument
is laid out and read back at every value (R166, R169, R186, Table 11-4). The check values of R187's worked computation. -/
def Obligations.RecordsCarryTheirArguments : Prop :=
  (crc16 [0x00] = 0xE1F0 ∧ crc16 [0x31, 0x32, 0x33, 0x34, 0x35, 0x36, 0x37, 0x38, 0x39] = 0x29B1) ∧
  ∀ (s : State) (line : Addr), s.ReadyFor line →
    let room := roomAt (lineOf line)
    let ready (code : Byte) (args : List Byte) := s.clearOut.executing line code args
    let guarded (g : Bool) (code : Byte) (args : List Byte) := (s.clearOut.setGuard g).executing line code args
    Runs (.identify line) s (finishCommand 0x01 (cmdIdentify (ready 0x01 []))) ∧
    (∀ x g, Runs (.readStatus line x g) s (finishCommand 0x02 (cmdReadStatus room x (guarded g 0x02 [x])))) ∧
    (∀ x, Runs (.softReset line x) s (finishCommand 0x03 (cmdSoftReset x (ready 0x03 [x])))) ∧
    (∀ x, Runs (.setTiming line x) s (finishCommand 0x10 (cmdSetTiming x (ready 0x10 (timingBytes x))))) ∧
    (∀ x, Runs (.clearEvents line x) s (finishCommand 0x11 (cmdClearEvents x (ready 0x11 (le4 x.toNat))))) ∧
    (∀ x, Runs (.setEventEnables line x) s (finishCommand 0x12 (cmdSetEventEnables x (ready 0x12 (le4 x.toNat))))) ∧
    (∀ x g, Runs (.setRule line x g) s (finishCommand 0x20 (cmdSetRule x (guarded g 0x20 (ruleArgBytes x))))) ∧
    (∀ x g, Runs (.readRule line x g) s (finishCommand 0x21 (cmdReadRule x (guarded g 0x21 [x])))) ∧
    (∀ x y g, Runs (.setDefault line x y g) s (finishCommand 0x22 (cmdSetDefault x y (guarded g 0x22 [x, y])))) ∧
    (∀ x y z g, Runs (.setFence line x y z g) s (finishCommand 0x23 (cmdSetFence x y z (guarded g 0x23 [x, y, z])))) ∧
    (∀ x g, Runs (.setLock line x g) s (finishCommand 0x24 (cmdSetLock x (guarded g 0x24 [x])))) ∧
    (∀ x y z, Runs (.setQueue line x y z) s (finishCommand 0x30 (cmdSetQueue x y z (ready 0x30 [x, y, z])))) ∧
    (∀ x y, Runs (.fetchCapture line x y) s (finishCommand 0x31 (cmdFetchCapture room x y (ready 0x31 [x, y])))) ∧
    (∀ x n, Runs (.ackCapture line x n) s (finishCommand 0x32 (cmdAckCapture x n (ready 0x32 (x :: le4 n.toNat))))) ∧
    (∀ x, Runs (.fetchSlot line x) s (finishCommand 0x33 (cmdFetchSlot x (ready 0x33 [x])))) ∧
    (∀ x, Runs (.releaseSlot line x) s (finishCommand 0x34 (cmdReleaseSlot x (ready 0x34 [x])))) ∧
    (∀ x n, Runs (.flush line x n) s (finishCommand 0x40 (cmdFlush x n (ready 0x40 (x :: le2 n.toNat))))) ∧
    Runs (.listFaults line) s (finishCommand 0x41 (cmdListFaults room (ready 0x41 []))) ∧
    (∀ n, Runs (.faultRetry line n) s (finishCommand 0x42 (cmdFaultRetry n (ready 0x42 (le2 n.toNat))))) ∧
    (∀ n, Runs (.faultDiscard line n) s (finishCommand 0x43 (cmdFaultDiscard n (ready 0x43 (le2 n.toNat))))) ∧
    (∀ x, Runs (.setFlashPolicy line x) s (finishCommand 0x50 (cmdSetFlashPolicy x (ready 0x50 (policyArgBytes x))))) ∧
    Runs (.sleep line) s (finishCommand 0x60 (cmdSleep (ready 0x60 []))) ∧
    Runs (.wake line) s (finishCommand 0x61 (cmdWake (ready 0x61 []))) ∧
    (∀ x y z, Runs (.setPowerPolicy line x y z) s
      (finishCommand 0x62 (cmdSetPowerPolicy x y z (ready 0x62 [x, y, z])))) ∧
    (∀ x y z (d : List Byte), d.length ≤ 16 → Runs (.programFuse line x y z d) s
      (finishCommand 0x70 (cmdProgramFuse x y z (padTo 50 d) (ready 0x70 (x :: y :: z :: d))))) ∧
    (∀ x, Runs (.lockFuse line x) s (finishCommand 0x71 (cmdLockFuse x (ready 0x71 [x])))) ∧
    (∀ x, commandCodes.contains x = false → Runs (.unknownCommand line x) s (finishCommand x (cmdUnknown (ready x []))))

/-- IDENTIFY is answered ACCEPTED in every power state with the payload of Table 11-10 and changes nothing else
(R172); a code that names no command is answered UNKNOWN_COMMAND with an empty payload and changes nothing
(R169). And what a placed reply is (R170, Table 11-6): the header with status, code, length carried, truncation flag
and power state, the payload cut to the room at the line, the lines the reply reaches, the expiry tick. -/
def Obligations.IdentifyAndUnknownCommand : Prop :=
  (∀ (s : State) (line : Addr) (code : Byte) (r : Reply),
     let at0 := lineOf line
     let room := min 512 (4096 - at0.toNat % 4096)
     let carried := r.payload.take (room - 8)
     let cut := r.cut = true ∨ room - 8 < r.payload.length
     let o := replyOverlay s at0 code r
     roomAt at0 = room ∧ o.line = at0 ∧
     o.bytes = [r.status.code, code] ++ le2 carried.length ++
       [(if cut then 0x01 else 0x00) + (if r.zeroed = true then 0x02 else 0x00), s.power.st.code, 0x00, 0x00] ++ carried ∧
     o.bytes.length ≤ 64 * o.count ∧ 64 * o.count < o.bytes.length + 64 ∧
     o.expiry = s.time.tick + s.time.timing.replyLifetime.setWidth 32) ∧
  [Status.accepted, .refusedLocked, .refusedState, .refusedRange, .refusedBusy, .notFound, .unknownCommand].map Status.code =
    [0x00, 0x01, 0x02, 0x03, 0x04, 0x05, 0x06] ∧
  ∀ (s : State) (line : Addr), s.ReadyFor line →
    exec (.identify line) s = .next (s.clearOut.repliedAccepted line 0x01
      ([0x5A, 0x1C, 0x04, 0x02, 0x01, 16, 24, 32, 16, 8, 4, 0x00, 0x02, byteAt (s.profile.getD []) 0,
        byteAt (s.profile.getD []) 1,
        bitsByte [s.control.enable, s.fuses.keyLocked, s.fuses.profileLocked, s.fuses.fenceLocked]])) ∧
    ∀ code, commandCodes.contains code = false →
      exec (.unknownCommand line code) s = .next (s.clearOut.repliedRefused line code .unknownCommand [])

/-- READ-STATUS (R173): the status payload, and the retry counter zeroed after it, only when the flag asks for it
and the reply of 76 bytes fits the room; a flag other than yes and no is refused and changes nothing. The draw of
free values (log entry 9) moves on. The status payload's layout (Table 11-11): 68 bytes, each field at its place. The
codes of Table 11-1, and numbers least significant byte first (R186). -/
def Obligations.ReadStatusReports : Prop :=
  ([PowerState.starting, .unconfigured, .run, .drain, .sleep, .waking, .emergency, .safe].map PowerState.code =
     [0x00, 0x01, 0x02, 0x03, 0x04, 0x05, 0x06, 0x07] ∧
   (∀ c op t l u r, [SeqState.idle, .reading c, .busy op, .suspending op t, .suspended op l, .resuming op, .stalled,
     .asleep, .waking u, .startupWait u r].map SeqState.code = [0x00, 0x01, 0x02, 0x03, 0x04, 0x05, 0x06, 0x07, 0x08, 0x09]) ∧
   [LockState.unlocked, .guarded, .frozen].map LockState.code = [0x00, 0x01, 0x02] ∧
   [RuleKind.range, .pair, .mask].map RuleKind.code = [0x00, 0x01, 0x02] ∧
   [AppliesTo.reads, .writes, .both].map AppliesTo.code = [0x00, 0x01, 0x02] ∧
   [RuleAction.absorb, .deny, .latch].map RuleAction.code = [0x00, 0x01, 0x02] ∧
   [none, some QueueName.a, some .b].map targetCode = [0x00, 0x01, 0x02] ∧
   [QueueMode.lossy, .overwrite, .strict].map QueueMode.code = [0x00, 0x01, 0x02] ∧
   [RefusalReason.badSpan, .unconfigured, .deniedFence, .deniedRule, .deniedMedia, .deniedPower, .holdExpired,
     .flashUnavailable].map RefusalReason.code = [0x01, 0x02, 0x03, 0x04, 0x05, 0x06, 0x07, 0x08] ∧
   [CaptureOutcome.absorbed, .served].map CaptureOutcome.code = [0x10, 0x11] ∧
   (∀ x, (CaptureOutcome.refused x).code = x.code) ∧
   [FaultKind.eraseFailed, .programFailed, .verifyMismatch, .flashTimeout].map FaultKind.code = [0x01, 0x02, 0x03, 0x04] ∧
   (∀ n, (RuleIndex.rule n).code = BitVec.ofNat 8 n) ∧ RuleIndex.default.code = 0xFE ∧
   [Access.read, .write].map Access.code = [0x00, 0x01] ∧ [FenceSide.low, .high].map FenceSide.code = [0x00, 0x01] ∧
   [FuseGroup.key, .profile, .fence].map FuseGroup.code = [0x01, 0x02, 0x03] ∧
   [DrainOutcome.entered, .failed .timeout, .failed .activity, .failed .faultedData, .failed .power].map DrainOutcome.codes =
     [(0x01, 0x00), (0x02, 0x01), (0x02, 0x02), (0x02, 0x03), (0x02, 0x04)] ∧
   (∀ x : Half, le2 x.toNat = [x.extractLsb' 0 8, x.extractLsb' 8 8]) ∧
   (∀ x : Addr, le3 x.toNat = [x.extractLsb' 0 8, x.extractLsb' 8 8, x.extractLsb' 16 8]) ∧
   ∀ x : BitVec 32, le4 x.toNat = [x.extractLsb' 0 8, x.extractLsb' 8 8, x.extractLsb' 16 8, x.extractLsb' 24 8]) ∧
  (∀ (s : State) (line : Addr) (clear : Byte) (g : Bool), s.ReadyFor line →
     let u := s.clearOut.setGuard g
     exec (.readStatus line clear g) s = .next
       (if clear = 0x00 ∨ clear = 0x01 then
         let zero := decide (clear = 0x01 ∧ 76 ≤ roomAt (lineOf line))
         ((if zero then u.withStaging { u.staging with retry := 0 } else u).draw).replied line 0x02
           { status := .accepted, payload := statusPayload u, cut := false, zeroed := zero }
       else u.repliedRefused line 0x02 .refusedRange [])) ∧
  (∀ s : State, s.capture.slots.length = 8 →
     let p := statusPayload s
     p.length = 68 ∧ byteAt p 0 = s.power.st.code ∧
     byteAt p 1 = bitsByte [s.power.policy.refuseInSleep, s.power.policy.drainAbort, s.power.policy.deepSleep] ∧
     (∀ r, s.power.lastDrain = some r → [byteAt p 2, byteAt p 3] = [r.outcome.codes.1, r.outcome.codes.2] ∧
       (p.drop 4).take 4 = le4 r.tick.toNat) ∧
     (s.power.lastDrain = none → byteAt p 2 = 0 ∧ byteAt p 3 = 0) ∧
     byteAt p 8 = yesNo (s.staging.entries.any Entry.unwritten) ∧ byteAt p 9 = s.seq.st.code ∧
     (p.drop 10).take 7 =
       [byteOf (s.staging.entries.countP Entry.isFree), byteOf (s.staging.entries.countP Entry.isFilling),
        byteOf (s.staging.entries.countP Entry.isOpen), byteOf (s.staging.entries.countP Entry.isClosed),
        byteOf (s.staging.entries.countP Entry.isCommitting), byteOf (s.staging.entries.countP Entry.isClean),
        byteOf (s.staging.entries.countP Entry.isFaulted)] ∧
     byteAt p 17 = bitsByte (s.capture.slots.map (·.isNew)) ∧ (p.drop 18).take 2 = le2 s.staging.retry ∧
     (p.drop 20).take 8 = [byteOf s.capture.a.records.length, s.capture.a.mode.code, yesNo s.capture.a.dropped, 0] ++
       le4 s.capture.a.next.toNat ∧
     (p.drop 28).take 8 = [byteOf s.capture.b.records.length, s.capture.b.mode.code, yesNo s.capture.b.dropped, 0] ++
       le4 s.capture.b.next.toNat ∧
     byteAt p 36 = s.rule.lock.code ∧ byteAt p 37 = (s.rule.lastUrgent.map byteOf).getD 0xFF ∧
     (s.port.lastRefusal = none → byteAt p 38 = 0) ∧
     (∀ r, s.port.lastRefusal = some r → (p.drop 38).take 10 =
       [r.reason.code, r.access.code] ++ le3 r.line.toNat ++ [(r.rule.map RuleIndex.code).getD 0xFF] ++ le4 r.tick.toNat) ∧
     (p.drop 48).take 4 = le4 s.time.tick.toNat ∧ (p.drop 52).take 4 = le4 s.events.flags.toNat ∧
     (p.drop 56).take 4 = le4 s.events.enables.toNat ∧ (p.drop 60).take 2 = le2 s.time.timing.prescaler.toNat ∧
     p.drop 62 = [byteOf s.port.reads.length, byteOf s.seq.misses.length, byteOf s.seq.fills.length,
       yesNo s.power.pwrwarn, yesNo s.rule.guard, 0])

/-- SET-TIMING (R158): with every row of Table 8-1 in range all eleven values are in force from the event, a
changed prescaler setting the sub-tick count to 0 (R155); otherwise every setting keeps its value and the reply
names the first row out of range. -/
def Obligations.SetTimingReplacesAllOrNothing : Prop :=
  ∀ (s : State) (line : Addr) (t : TimingSettings), s.ReadyFor line →
    exec (.setTiming line t) s = .next
      (if (timingRows t).all id then
        (s.clearOut.withTime { tick := s.time.tick,
                               subTick := if t.prescaler = s.time.timing.prescaler then s.time.subTick else 0,
                               timing := t }).repliedAccepted line 0x10 (timingBytes t ++ [0x00])
      else s.clearOut.repliedRefused line 0x10 .refusedRange
        (timingBytes s.time.timing ++ [byteOf ((timingRows t).findIdx (fun b => !b) + 1)]))

/-- CLEAR-EVENTS (R162): the named flags become clear and the others stay; a set naming a position above 20 is
refused and no flag is cleared. SET-EVENT-ENABLES (R163): the set replaces all the enables; a set naming a position above 20 is refused. -/
def Obligations.EventCommandsActOnTheNamedEvents : Prop :=
  (∀ (s : State) (line : Addr) (set : BitVec 32), s.ReadyFor line →
     exec (.clearEvents line set) s = .next
       (if set.toNat < 2 ^ 21 then
         (s.clearOut.withEvents { flags := s.events.flags &&& ~~~ set, enables := s.events.enables }).repliedAccepted line 0x11
           (le4 (s.events.flags &&& ~~~ set).toNat)
       else s.clearOut.repliedRefused line 0x11 .refusedRange [])) ∧
  (∀ (s : State) (line : Addr) (set : BitVec 32), s.ReadyFor line →
     exec (.setEventEnables line set) s = .next
       (if set.toNat < 2 ^ 21 then
         (s.clearOut.withEvents { flags := s.events.flags, enables := set }).repliedAccepted line 0x12
           (le4 set.toNat ++ le4 s.events.flags.toNat)
       else s.clearOut.repliedRefused line 0x12 .refusedRange []))

/-- SET-RULE (R115, R118, R108): the lock is checked first, then the fields, then the validity cases; an accepted
rule is stored at its index with the six lowest address bits cleared. The first clause is about every rule record
that names a rule of Table 5-2, the second about every record with a field outside its values. READ-RULE (R117): a rule with the default decision, the fence, the lock state and the level of GUARD in the
event; no state changes but the draw of free values (log entry 9). The bytes of a rule are those of Table 11-7; the
fence's seven bytes are spelled in SetFenceReplacesTheFence. -/
def Obligations.RuleCommandsStoreAndReport : Prop :=
  (∀ (i : Nat) (r : Rule), ruleBytes i r =
     [BitVec.ofNat 8 i,
      (if r.enabled = true then 0x01 else 0x00) + (if r.captureData = true then 0x02 else 0x00) +
        (if r.urgent = true then 0x04 else 0x00),
      r.kind.code, r.applies.code, r.action.code, BitVec.ofNat 8 r.slot, targetCode r.capture] ++
     le3 r.addr1.toNat ++ le3 r.addr2.toNat) ∧
  (∀ (s : State) (line : Addr) (g : Bool), s.ReadyFor line →
     let u := s.clearOut.setGuard g
     let locked := decide (s.rule.lock = .frozen ∨ (s.rule.lock = .guarded ∧ g = false))
     (∀ (i : Nat) (r : Rule), i < 24 → r.slot < 8 →
       let r' : Rule := { r with addr1 := lineOf r.addr1, addr2 := lineOf r.addr2 }
       let beyond (a : Addr) : Prop := ∃ f, s.windowSize = some f ∧ f ≤ a.toNat
       (locked = true → exec (.setRule line (ruleRecordOf i r) g) s =
         .next (u.repliedRefused line 0x20 .refusedLocked [byteOf i])) ∧
       (locked = false →
         ((r.action = .latch ∧ r.applies ≠ .writes) ∨ (r.captureData = true ∧ r.applies = .reads) ∨
           (r.kind = .range ∧ r'.addr2.toNat < r'.addr1.toNat) ∨
           (r.kind ≠ .mask ∧ (beyond r'.addr1 ∨ beyond r'.addr2))) →
         exec (.setRule line (ruleRecordOf i r) g) s = .next (u.repliedRefused line 0x20 .refusedRange [byteOf i])) ∧
       (locked = false →
         ¬ ((r.action = .latch ∧ r.applies ≠ .writes) ∨ (r.captureData = true ∧ r.applies = .reads) ∨
           (r.kind = .range ∧ r'.addr2.toNat < r'.addr1.toNat) ∨
           (r.kind ≠ .mask ∧ (beyond r'.addr1 ∨ beyond r'.addr2))) →
         exec (.setRule line (ruleRecordOf i r) g) s =
           .next ((u.withRule { u.rule with rules := s.rule.rules.set i r' }).repliedAccepted line 0x20 (ruleBytes i r')))) ∧
     (∀ a : RuleArgs,
       (23 < a.index.toNat ∨ 7 < a.flags.toNat ∨ 2 < a.kind.toNat ∨ 2 < a.applies.toNat ∨ 2 < a.action.toNat ∨
         7 < a.slot.toNat ∨ 2 < a.capture.toNat) →
       exec (.setRule line a g) s =
         .next (u.repliedRefused line 0x20 (if locked then .refusedLocked else .refusedRange) [a.index]))) ∧
  (∀ (s : State) (line : Addr) (i : Byte) (g : Bool), s.ReadyFor line →
     let u := s.clearOut.setGuard g
     exec (.readRule line i g) s = .next
       (if i.toNat ≤ 23 then
         u.draw.repliedAccepted line 0x21
           (ruleBytes i.toNat ((s.rule.rules[i.toNat]?).getD Rule.zero) ++
            [defaultCode s.rule.defaultDeny, targetCode s.rule.defaultCapture] ++ fenceBytes s s.rule.fence 18 ++
            [s.rule.lock.code, yesNo g])
       else u.repliedRefused line 0x21 .refusedRange []))

/-- SET-DEFAULT (R116): refused while the lock forbids the change; refused for an action other than ABSORB and
DENY or a target other than NONE, A and B; otherwise the default decision is replaced. -/
def Obligations.SetDefaultReplacesTheDefault : Prop :=
  ∀ (s : State) (line : Addr) (action capture : Byte) (g : Bool), s.ReadyFor line →
    let u := s.clearOut.setGuard g
    let target : Option QueueName := if capture = 0x01 then some .a else if capture = 0x02 then some .b else none
    exec (.setDefault line action capture g) s = .next
      (if s.rule.lock = .frozen ∨ (s.rule.lock = .guarded ∧ g = false) then u.repliedRefused line 0x22 .refusedLocked []
      else if 1 < action.toNat ∨ 2 < capture.toNat then u.repliedRefused line 0x22 .refusedRange []
      else (u.withRule { u.rule with defaultDeny := decide (action = 0x01), defaultCapture := target }).repliedAccepted
        line 0x22 [action, capture])

/-- SET-FENCE (R107): the checks in their order, and otherwise the working fence takes the three fields. The reply's
seven bytes (Table 11-7 from offset 15): size code, side, invert, first sector and sector count of the protected area;
where nothing is protected the first sector is a free value, and the draw of free values moves on (the model's choice,
log entry 9). -/
def Obligations.SetFenceReplacesTheFence : Prop :=
  (∀ (s : State) (f : Fence) (k : Nat), f.size ≤ 7 →
     let opens : List Byte :=
       [BitVec.ofNat 8 f.size, if f.side = .high then 0x01 else 0x00, if f.invert = true then 0x01 else 0x00]
     let empty : Prop := ∃ a b : Byte, fenceBytes s f k = opens ++ [a, b, 0x00, 0x00]
     (s.windowSize = none → empty) ∧
     ∀ w, s.windowSize = some w →
       let e := if f.size = 0 then 0 else w / 2 ^ (7 - f.size)
       let first := if f.side = .low then (if f.invert = true then e else 0) else (if f.invert = true then 0 else w - e)
       let sectors := (if f.invert = true then w - e else e) / 4096
       (sectors = 0 → empty) ∧
       (sectors ≠ 0 → fenceBytes s f k = opens ++ le2 (first / 4096) ++ le2 sectors)) ∧
  ∀ (s : State) (line : Addr) (size side invert : Byte) (g : Bool), s.ReadyFor line →
    let u := s.clearOut.setGuard g
    let f : Fence := { size := size.toNat, side := if side = 0x01 then .high else .low, invert := decide (invert = 0x01) }
    exec (.setFence line size side invert g) s = .next
      (if s.fuses.fenceLocked = true then u.repliedRefused line 0x23 .refusedLocked []
      else if s.rule.lock = .frozen ∨ (s.rule.lock = .guarded ∧ g = false) then
        u.repliedRefused line 0x23 .refusedLocked []
      else if 7 < size.toNat ∨ 1 < side.toNat ∨ 1 < invert.toNat then u.repliedRefused line 0x23 .refusedRange []
      else if s.unwritten = true then u.repliedRefused line 0x23 .refusedBusy []
      else ((u.withRule { u.rule with fence := f }).draw).repliedAccepted line 0x23 (fenceBytes s f 3))

/-- SET-LOCK (R119): the table of the rule, for every state asked for and both levels of GUARD. -/
def Obligations.SetLockFollowsItsTable : Prop :=
  ∀ (s : State) (line : Addr) (l : Byte) (g : Bool), s.ReadyFor line →
    let u := s.clearOut.setGuard g
    let become (x : LockState) := (u.withRule { u.rule with lock := x }).repliedAccepted line 0x24 [x.code]
    let refused := u.repliedRefused line 0x24 .refusedLocked [s.rule.lock.code]
    exec (.setLock line l g) s = .next
      (if 2 < l.toNat then u.repliedRefused line 0x24 .refusedRange [s.rule.lock.code]
      else match s.rule.lock, l.toNat with
        | .unlocked, 0 => become .unlocked
        | .unlocked, 1 => become .guarded
        | .unlocked, _ => become .frozen
        | .guarded, 0 => if g then become .unlocked else refused
        | .guarded, 1 => become .guarded
        | .guarded, _ => become .frozen
        | .frozen, _ => refused)

/-- SET-QUEUE (R135): the queue takes mode and watermark and keeps all else; anything outside its values is
refused and changes nothing. -/
def Obligations.SetQueueSetsModeAndWatermark : Prop :=
  ∀ (s : State) (line : Addr) (w : Byte), s.ReadyFor line →
    (∀ (n : QueueName) (m : QueueMode),
      let q := s.capture.queue n
      exec (.setQueue line (targetCode (some n)) m.code w) s = .next
        (if 1 ≤ w.toNat ∧ w.toNat ≤ Config.queueCapacity n then
          (s.clearOut.withCapture (s.capture.setQueue n { q with mode := m, watermark := w.toNat })).repliedAccepted line 0x30
            ([targetCode (some n), m.code, w, byteOf q.records.length] ++ le4 q.next.toNat)
        else s.clearOut.repliedRefused line 0x30 .refusedRange [])) ∧
    (∀ q m : Byte, (q = 0 ∨ 2 < q.toNat ∨ 2 < m.toNat) →
      exec (.setQueue line q m w) s = .next (s.clearOut.repliedRefused line 0x30 .refusedRange []))

/-- FETCH-CAPTURE (R132): as many whole records from the head as fit the room and the maximum allow, in list
order; nothing is removed, and the dropped flag is cleared after it is reported. The payload's 16 fixed bytes and the
records carried, each as Table 11-8 lays it out (chapter 11.3). -/
def Obligations.FetchCaptureCopiesFromTheHead : Prop :=
  (∀ (queue : Byte) (q : CaptureQueue) (rs : List CaptureRecord), fetchPayload queue q rs =
     [queue, q.mode.code, BitVec.ofNat 8 q.watermark, if q.dropped = true then 0x01 else 0x00,
      BitVec.ofNat 8 q.records.length, BitVec.ofNat 8 rs.length, 0x00, 0x00] ++
     le4 q.next.toNat ++ le4 (((rs.head?).map (·.number)).getD q.next).toNat ++ rs.flatMap captureBytes) ∧
  (∀ r : CaptureRecord,
     let data := r.data.getD []
     captureBytes r = le4 r.number.toNat ++ le4 r.tick.toNat ++ le3 r.line.toNat ++
       [BitVec.ofNat 8 r.offset, BitVec.ofNat 8 r.length, r.access.code, r.rule.code, r.outcome.code,
        BitVec.ofNat 8 data.length, 0x00, 0x00, 0x00] ++ data) ∧
  (∀ (s : State) (line : Addr) (m : Byte), s.ReadyFor line →
    (∀ n : QueueName,
      let q := s.capture.queue n
      exec (.fetchCapture line (targetCode (some n)) m) s = .next
        (if 1 ≤ m.toNat ∧ m.toNat ≤ 32 then
          (s.clearOut.withCapture (s.capture.setQueue n { q with dropped := false })).repliedAccepted line 0x31
            (fetchPayload (targetCode (some n)) q
              (fittingRecords (roomAt (lineOf line) - 24) m.toNat q.records))
        else s.clearOut.repliedRefused line 0x31 .refusedRange [])) ∧
    (∀ q : Byte, (q = 0 ∨ 2 < q.toNat) →
      exec (.fetchCapture line q m) s = .next (s.clearOut.repliedRefused line 0x31 .refusedRange []))) ∧
  (∀ (space limit : Nat) (rs : List CaptureRecord),
    let c := fittingRecords space limit rs
    c <+: rs ∧ c.length ≤ limit ∧ (c.flatMap captureBytes).length ≤ space ∧
    (∀ r, rs[c.length]? = some r → c.length < limit →
      space < (c.flatMap captureBytes).length + (captureBytes r).length))

/-- ACK-CAPTURE (R133): with H the head's number (the next number when the queue is empty), c the record count and
d = s - H modulo 2^32: d below c removes the d + 1 records up to the one named, d at least 2^31 removes none and is
accepted, every other d is refused. A removal restarts the stale timer, or stops it when the queue is empty or the
limit is 0 (R130). -/
def Obligations.AckCaptureRemovesUpToTheNamedRecord : Prop :=
  ∀ (s : State) (line : Addr) (x : BitVec 32), s.ReadyFor line →
    (∀ n : QueueName,
      let q := s.capture.queue n
      let h := ((q.records.head?).map (·.number)).getD q.next
      let d := (x - h).toNat
      let limit := staleLimit s.time.timing n
      let rest := q.records.drop (d + 1)
      let q' := { q with records := rest,
                         staleExpiry := if rest = [] ∨ limit = 0 then none else some (s.time.tick + limit.setWidth 32) }
      exec (.ackCapture line (targetCode (some n)) x) s = .next
        (if d < q.records.length then
          (s.clearOut.withCapture (s.capture.setQueue n q')).repliedAccepted line 0x32
            ([targetCode (some n), byteOf (d + 1), byteOf rest.length, 0] ++ le4 q.next.toNat)
        else if 2 ^ 31 ≤ d then
          s.clearOut.repliedAccepted line 0x32 ([targetCode (some n), 0, byteOf q.records.length, 0] ++ le4 q.next.toNat)
        else s.clearOut.repliedRefused line 0x32 .refusedRange [])) ∧
    (∀ q : Byte, (q = 0 ∨ 2 < q.toNat) →
      exec (.ackCapture line q x) s = .next (s.clearOut.repliedRefused line 0x32 .refusedRange []))

/-- FETCH-SLOT reports one slot and changes no state but the draw of free values (R138, log entry 9);
RELEASE-SLOT clears its NEW flag and keeps its record (R139); a slot above 7 is refused. The payload is laid out as
Table 11-9; without a record its fields are free values. -/
def Obligations.SlotCommands : Prop :=
  (∀ (draws : Nat) (n : Byte) (x : LatchSlot),
     (x.record = none → ∃ free : List Byte, free.length = 10 ∧
       slotBytes draws n x = [n, if x.isNew = true then 0x01 else 0x00] ++ free) ∧
     ∀ r, x.record = some r → slotBytes draws n x =
       [n, if x.isNew = true then 0x03 else 0x02] ++ le3 r.line.toNat ++
       [BitVec.ofNat 8 r.offset, BitVec.ofNat 8 r.data.length, BitVec.ofNat 8 r.rule] ++ le4 r.tick.toNat ++ r.data) ∧
  ∀ (s : State) (line : Addr) (n : Byte), s.ReadyFor line →
    let x := s.capture.slot n.toNat
    exec (.fetchSlot line n) s = .next
      (if n.toNat ≤ 7 then s.clearOut.draw.repliedAccepted line 0x33 (slotBytes s.draws n x)
      else s.clearOut.repliedRefused line 0x33 .refusedRange []) ∧
    exec (.releaseSlot line n) s = .next
      (if n.toNat ≤ 7 then
        (s.clearOut.withCapture { s.capture with slots := s.capture.slots.set n.toNat { x with isNew := false } }).repliedAccepted
          line 0x34 [n, yesNo x.isNew]
      else s.clearOut.repliedRefused line 0x34 .refusedRange [])

/-- FLUSH (R39): scope ALL closes every entry in ascending number, scope SECTOR the entry of the named sector,
with the three counts; a sector beyond the flash and any other scope are refused. An IDLE sequencer grants the
commit start the close brings in the same event (R63). The counts are of the entries made CLOSED, given
close-on-fill and made CLEAN. -/
def Obligations.FlushClosesEntries : Prop :=
  (∀ es : List Entry, flushCounts es = [
     BitVec.ofNat 8 (es.countP fun e => match e with | .opened d _ => hasDirty d | _ => false),
     BitVec.ofNat 8 (es.countP fun e => match e with | .filling _ f => f.closeOnFill == none | _ => false),
     BitVec.ofNat 8 (es.countP fun e => match e with | .opened d _ => !hasDirty d | _ => false)]) ∧
  ∀ (s : State) (line : Addr) (scope : Byte) (sector : Half), s.ReadyFor line → s.seq.powerReq = none →
    let all := (s.clearOut.withStaging ((List.range 16).foldl (Staging.close .flush) s.staging)).granted
    (scope = 0x00 → all.atRest →
      exec (.flush line scope sector) s = .next (all.repliedAccepted line 0x40 (flushCounts s.staging.entries))) ∧
    (scope = 0x01 → s.beyondSectors sector.toNat = true →
      exec (.flush line scope sector) s = .next (s.clearOut.repliedRefused line 0x40 .refusedRange [])) ∧
    (scope = 0x01 → s.beyondSectors sector.toNat = false → s.staging.find sector.toNat = none →
      exec (.flush line scope sector) s = .next (s.clearOut.repliedAccepted line 0x40 [0, 0, 0])) ∧
    (∀ i, scope = 0x01 → s.beyondSectors sector.toNat = false → s.staging.find sector.toNat = some i →
      let one := (s.clearOut.withStaging (s.staging.close .flush i)).granted
      one.atRest →
      exec (.flush line scope sector) s = .next (one.repliedAccepted line 0x40 (flushCounts [s.staging.entry i]))) ∧
    (1 < scope.toNat →
      exec (.flush line scope sector) s = .next (s.clearOut.repliedRefused line 0x40 .refusedRange []))

/-- LIST-FAULTS (R53): always ACCEPTED; as many whole descriptors as fit, from the lowest sector, the truncation
flag set when some are left out; the faults are reported in ascending sector order, each FAULTED entry once. A
descriptor is 7 bytes (chapter 11.3): sector, a byte of page, kind and page flag, tick; without a page the page bits are
free (log entry 9). -/
def Obligations.ListFaultsReports : Prop :=
  (∀ (free : Byte) (n : Nat) (r : FaultRecord),
     let descriptor (b : Byte) := le2 n ++ [b] ++ le4 r.tick.toNat
     (∀ p, r.page = some p → p < 16 → faultBytes free (n, r) = descriptor (BitVec.ofNat 8 (128 + 16 * r.kind.code.toNat + p))) ∧
     (r.page = none → ∃ b : Byte, faultBytes free (n, r) = descriptor b ∧ b.toNat / 16 = r.kind.code.toNat)) ∧
  (∀ (e : Entry) (n : Nat) (r : FaultRecord), faultOf e = some (n, r) ↔ ∃ d, e = .faulted d r ∧ d.number = n) ∧
  (∀ (s : State) (line : Addr), s.ReadyFor line →
    let all := sortedFaults s.staging.entries
    let carried := all.take ((roomAt (lineOf line) - 9) / 7)
    exec (.listFaults line) s = .next (s.clearOut.draw.replied line 0x41
      { status := .accepted,
        payload := byteOf carried.length ::
          (carried.mapIdx fun i x => faultBytes (Config.freeByte s.draws (3 + 7 * i)) x).flatten,
        cut := decide (carried.length < all.length), zeroed := false })) ∧
  (∀ es : List Entry, (sortedFaults es).Pairwise (fun x y => x.1 ≤ y.1) ∧ (sortedFaults es).Perm (es.filterMap faultOf))

/-- FAULT-RETRY (R54): the cases in their order; accepted, the entry becomes CLOSED with cause RETRY at the tail
of the close queue, both images kept. FAULT-DISCARD (R55): accepted, the entry becomes FREE, and every read that holds a
result from it is resolved afresh from its hazard stage (R92), where the record itself is the write in progress; then the
reply waits to be placed. Of several such reads the oldest goes first (the model's choice, log entry 22). -/
def Obligations.FaultCommandsActOnTheFaultedEntry : Prop :=
  (∀ (s : State) (line : Addr) (n : Half), s.ReadyFor line → s.seq.powerReq = none →
     let refused (x : Status) := Host.Outcome.next (s.clearOut.repliedRefused line 0x42 x [])
     (s.beyondSectors n.toNat = true → exec (.faultRetry line n) s = refused .refusedRange) ∧
     (s.beyondSectors n.toNat = false → (s.power.st = .emergency ∨ s.power.st = .safe) →
       exec (.faultRetry line n) s = refused .refusedState) ∧
     (s.beyondSectors n.toNat = false → s.power.st ≠ .emergency → s.power.st ≠ .safe →
       (∀ i d r, s.staging.find n.toNat = some i → s.staging.entry i ≠ .faulted d r) →
       exec (.faultRetry line n) s = refused .notFound) ∧
     (∀ i d r, s.beyondSectors n.toNat = false → s.power.st ≠ .emergency → s.power.st ≠ .safe →
       s.staging.find n.toNat = some i → s.staging.entry i = .faulted d r →
       let x := (s.clearOut.withStaging { s.staging with entries := s.staging.entries.set i (.closed d .retry),
                                                         closeQueue := s.staging.closeQueue ++ [i] }).granted
       x.atRest → exec (.faultRetry line n) s = .next (x.repliedAccepted line 0x42 []))) ∧
  (∀ (s : State) (line : Addr) (n : Half), s.ReadyFor line → s.seq.powerReq = none →
     (s.beyondSectors n.toNat = true →
       exec (.faultDiscard line n) s = .next (s.clearOut.repliedRefused line 0x43 .refusedRange [])) ∧
     (s.beyondSectors n.toNat = false →
       (∀ i d r, s.staging.find n.toNat = some i → s.staging.entry i ≠ .faulted d r) →
       exec (.faultDiscard line n) s = .next (s.clearOut.repliedRefused line 0x43 .notFound [])) ∧
     (∀ i d r, s.beyondSectors n.toNat = false → s.staging.find n.toNat = some i → s.staging.entry i = .faulted d r →
       s.port.reads.all (fun x => !x.fromEntry i d.number) = true →
       let x := s.clearOut.withStaging { s.staging with entries := s.staging.entries.set i .free }
       x.atRest → exec (.faultDiscard line n) s = .next (x.repliedAccepted line 0x43 [])) ∧
     (∀ i d r, s.beyondSectors n.toNat = false → s.staging.find n.toNat = some i → s.staging.entry i = .faulted d r →
       let freed := (s.clearOut.executing line 0x43 (le2 n.toNat)).withStaging
         { s.staging with entries := s.staging.entries.set i .free }
       let held := s.port.reads.filter (Read.fromEntry i d.number)
       (∃ x, ResolvesAfresh freed held x) ∧
       ∀ x, ResolvesAfresh freed held x → Reaches (.faultDiscard line n) s (x.setWrite (some
         { req := controlRecord s.control.key (lineOf line) 0x43 (le2 n.toNat), accepted := s.now, hold := none,
           stage := .replying 0x43 (acceptedReply []), decision := none })))) ∧
  (∀ (r : Read) (i n : Nat), r.fromEntry i n = true ↔
     sectorOf r.req.line = n ∧ ∃ bs, r.stage = .resolved (.ok bs (.entry i)))

/-- SET-FLASH-POLICY (R79): the six fields replaced as a whole, or refused with the policy unchanged when any is
out of its range. SET-POWER-POLICY (R152): the three fields replaced as a whole, or refused with the policy unchanged. An
outstanding sleep request stands. -/
def Obligations.PoliciesAreReplacedWhole : Prop :=
  (∀ (s : State) (line : Addr) (p : PolicyArgs), s.ReadyFor line →
     exec (.setFlashPolicy line p) s = .next
       (if p.suspendEnable.toNat ≤ 1 ∧ p.eraseBudget.toNat ≤ 7 ∧ p.programBudget.toNat ≤ 3 ∧ p.verifyEnable.toNat ≤ 1 ∧
           1 ≤ p.commitShare.toNat ∧ p.commitShare.toNat ≤ 64 then
         (s.clearOut.withSeq { s.seq with policy :=
           { suspendEnable := decide (p.suspendEnable = 0x01), eraseBudget := p.eraseBudget.toNat,
             programBudget := p.programBudget.toNat, resumeSpacing := p.resumeSpacing.toNat,
             verifyEnable := decide (p.verifyEnable = 0x01), commitShare := p.commitShare.toNat } }).repliedAccepted line 0x50
           [p.suspendEnable, p.eraseBudget, p.programBudget, p.resumeSpacing, p.verifyEnable, p.commitShare]
       else s.clearOut.repliedRefused line 0x50 .refusedRange [])) ∧
  (∀ (s : State) (line : Addr) (x y z : Byte), s.ReadyFor line →
     exec (.setPowerPolicy line x y z) s = .next
       (if x.toNat ≤ 1 ∧ y.toNat ≤ 1 ∧ z.toNat ≤ 1 then
         (s.clearOut.withPower { s.power with policy :=
           { refuseInSleep := decide (x = 0x01), drainAbort := decide (y = 0x01), deepSleep := decide (z = 0x01) } }).repliedAccepted
           line 0x62 [x, y, z]
       else s.clearOut.repliedRefused line 0x62 .refusedRange []))

/-- SLEEP (R142, R143): refused outside RUN; in RUN the drain starts with the close of every entry, in ascending number. In the same
event the IDLE sequencer grants a commit start the close brings, or the drain completes: in SLEEP at once with
flash-deep-sleep off, through the flash SLEEP with it on. The reply's header carries the power state at the end. WAKE (R147): in SLEEP the part moves to WAKING, or through it to RUN with the flash awake; in WAKING and RUN
it is accepted without effect; in the other states it is refused. To leave SLEEP (R145, R78): with the flash asleep
WAKE is issued and the part is WAKING until the wake delay has passed, a delay of 0 ending in the event; with the flash
awake the state is RUN at once, in SUSPENDING, SUSPENDED, RESUMING and STALLED too, where Table 3-6 and R76 have the
request wait (the model's choice, log entry 24). -/
def Obligations.SleepAndWakeMoveThePowerState : Prop :=
  (∀ (s : State) (line : Addr), s.ReadyFor line → s.seq.powerReq = none →
     (s.power.st ≠ .run → exec (.sleep line) s = .next (s.clearOut.repliedRefused line 0x60 .refusedState [])) ∧
     (s.power.st = .run →
       let c := (s.clearOut.withPower { s.power with
         st := .drain, drainExpiry := some (tickAfter s.now s.time.timing.drainLimit.toNat) }).withStaging
           ((List.range 16).foldl (Staging.close .drain) s.staging)
       let x := if c.canGrant then c.grantNext
         else if c.drainDue then
           (if s.power.policy.deepSleep then (c.setPowerReq (some .sleep)).grantSleep else c.enterSleep)
         else c
       x.atRest → exec (.sleep line) s = .next (x.repliedAccepted line 0x60 []))) ∧
  (∀ (s : State) (line : Addr), s.ReadyFor line →
     (s.power.st = .sleep → s.clearOut.wakePart.atRest →
       exec (.wake line) s = .next (s.clearOut.wakePart.repliedAccepted line 0x61 [])) ∧
     ((s.power.st = .waking ∨ s.power.st = .run) →
       exec (.wake line) s = .next (s.clearOut.repliedAccepted line 0x61 [])) ∧
     (s.power.st ≠ .sleep → s.power.st ≠ .waking → s.power.st ≠ .run →
       exec (.wake line) s = .next (s.clearOut.repliedRefused line 0x61 .refusedState []))) ∧
  (∀ s : State,
     let delay := (byteAt (s.profile.getD []) 15).toNat
     (s.seq.st = .asleep → delay ≠ 0 → s.wakePart =
       (((s.setPowerSt .waking).issueBare .wake).setPowerReq none).setSeqSt (.waking (s.now + BitVec.ofNat 32 delay))) ∧
     (s.seq.st = .asleep → delay = 0 →
       s.wakePart = (((s.setPowerSt .run).issueBare .wake).setPowerReq none).setSeqSt .idle) ∧
     (s.seq.st ≠ .asleep → s.wakePart = (s.setPowerSt .run).setPowerReq none))

/-- PROGRAM-FUSE (R179, R180): the cases in their order; accepted, the record stays the write in progress without a
hold limit and nothing else changes but that an overlay ends. LOCK-FUSE (R181): the group's lock fuse is programmed, and
the reply says whether it was before; no other lock and no fuse byte changes. The programming completion (R179): each addressed fuse byte has the one bits of
the data added, but for bits that failed; every other fuse is as it was; the reply carries group, offset, count, the
number of bytes in which a one bit reads back as zero, and the bytes read back; the record is answered OK. -/
def Obligations.FuseCommands : Prop :=
  (∀ (s : State) (line : Addr) (offset count : Byte) (data : List Byte), s.ReadyFor line → data.length ≤ 16 →
     (∀ g : FuseGroup,
       exec (.programFuse line g.code offset count data) s = .next
         (if s.fuses.locked g = true then s.clearOut.repliedRefused line 0x70 .refusedLocked []
         else if count.toNat = 0 ∨ 16 < count.toNat ∨ g.size < offset.toNat + count.toNat then
           s.clearOut.repliedRefused line 0x70 .refusedRange []
         else
           (s.clearOut.withControl { s.control with overlay := none }).setWrite (some
             { req := controlRecord s.control.key (lineOf line) 0x70 (g.code :: offset :: count :: data),
               accepted := s.now, hold := none,
               stage := .fuseProgramming { group := g, offset := offset.toNat, data := padTo count.toNat data },
               decision := none }))) ∧
     (∀ x : Byte, (x = 0 ∨ 3 < x.toNat) →
       exec (.programFuse line x offset count data) s = .next (s.clearOut.repliedRefused line 0x70 .refusedRange []))) ∧
  (∀ (s : State) (line : Addr), s.ReadyFor line →
     (∀ g : FuseGroup, exec (.lockFuse line g.code) s = .next
       ((s.clearOut.withFuses (s.fuses.lock g)).repliedAccepted line 0x71 [g.code, yesNo (s.fuses.locked g)])) ∧
     (∀ x : Byte, (x = 0 ∨ 3 < x.toNat) →
       exec (.lockFuse line x) s = .next (s.clearOut.repliedRefused line 0x71 .refusedRange []))) ∧
  (∀ (f : Fuses) (g : FuseGroup), (f.lock g).locked g = true ∧ (∀ h, h ≠ g → (f.lock g).locked h = f.locked h) ∧
     ∀ h, (f.lock g).group h = f.group h) ∧
  (∀ (s : State) (failed : List Byte) (w : WriteInProgress) (job : FuseJob), s.atRest → s.port.write = some w →
     w.stage = .fuseProgramming job →
     let took := job.data.mapIdx fun i d => d &&& ~~~ (byteAt failed i)
     let bytes := addBits (s.fuses.group job.group) job.offset took
     let back := (bytes.drop job.offset).take job.data.length
     let u := s.clearOut.withFuses (s.fuses.setGroup job.group bytes)
     Reaches (.fuseProgrammingCompletion failed) s
       (((u.withControl { s.control with overlay := some (replyOverlay u w.req.line 0x70 (acceptedReply
           ([job.group.code, byteOf job.offset, byteOf job.data.length, byteOf (unprogrammed job.data back)] ++ back))) }).setWrite
         none).giveAnswer (writeAnswer w.req (.ok [])))) ∧
  (∀ (l data : List Byte) (n k : Nat), k < l.length → (addBits l n data).length = l.length ∧
     byteAt (addBits l n data) k =
       if n ≤ k ∧ k < n + data.length then byteAt l k ||| byteAt data (k - n) else byteAt l k) ∧
  (∀ data back : List Byte, data.length = back.length →
     unprogrammed data back = (List.range data.length).countP fun i => byteAt data i &&& ~~~ (byteAt back i) != 0)

/-- SOFT-RESET (R174, R175): a flag neither yes nor no is refused REFUSED_RANGE, DISCARD no with unwritten data
REFUSED_STATE. Otherwise the reset is accepted: the lanes close, no reply is placed, every read of the queue is answered
in order with its result or FLASH_UNAVAILABLE, a drain ends, the sequencer begins its part (R80): it drops its claims, a
service list keeps only the READ in flight, an ASLEEP flash is woken. The reset takes effect in the same event when the
sequencer is IDLE or STALLED; the reads are then answered before the record (the model's reading, log entry 23). Until
the effect the power state of a part that was in DRAIN is RUN (the model's reading, log entry 11). -/
def Obligations.SoftResetIsAccepted : Prop :=
  ∀ (s : State) (line : Addr) (x : Byte), s.ReadyFor line →
    (1 < x.toNat → exec (.softReset line x) s = .next (s.clearOut.repliedRefused line 0x03 .refusedRange [])) ∧
    (x = 0x00 → s.unwritten = true →
      exec (.softReset line x) s = .next (s.clearOut.repliedRefused line 0x03 .refusedState [])) ∧
    ((x = 0x01 ∨ (x = 0x00 ∧ s.unwritten = false)) →
      let a := (s.clearOut.executing line 0x03 [x]).awaitReset.acceptSoftReset
      a.port.lanesOpen = false ∧ a.port.reads = [] ∧ a.control.softReset = true ∧ a.control.overlay = none ∧
      a.seq.misses = [] ∧ a.seq.fills = [] ∧ a.seq.powerReq = none ∧ a.seq.deferred = none ∧
      a.staging = s.staging ∧ a.rule = s.rule ∧ a.time = s.time ∧ a.fuses = s.fuses ∧
      a.answers = (s.port.reads.map fun r =>
        { access := .read, line := r.req.line, offset := r.req.offset, length := r.req.length,
          result := match r.stage with
            | .resolved (.ok bs _) => .ok bs
            | .resolved (.err reason) => .err reason
            | _ => .err .flashUnavailable }) ∧
      a.seq.st = (match s.seq.st with
        | .suspended op service => .suspended op (service.take 1)
        | .asleep => if s.wakeDelay = 0 then .idle else .waking (s.now + BitVec.ofNat 32 s.wakeDelay)
        | x => x) ∧
      a.link = (if s.seq.st = .asleep then
        [{ fn := .wake, opcode := s.opcode .wake, addr := [], dummies := 0, data := [], reads := 0 }] else []) ∧
      (s.power.st = .drain → a.power = { s.power with st := .run, drainExpiry := none }) ∧
      (s.seq.st = .asleep → s.wakeDelay = 0 → Reaches (.softReset line x) s a.softResetEffect) ∧
      ((s.seq.st = .idle ∨ s.seq.st = .stalled) → Reaches (.softReset line x) s a.softResetEffect) ∧
      (s.seq.st ≠ .idle → s.seq.st ≠ .stalled → Reaches (.softReset line x) s a))

/-- A soft reset takes effect (R176, Table 9-3): the record is answered OK; the staging table, the queues, the slots,
the policies, the timing settings, the events and the last drain result take their soft-reset values; rules, default,
fence, lock state, key, enable, fuses, profile in use and tick counter are kept; the lanes open. FLASH_STALL is raised in
STALLED. With PWRWARN high POWER_WARNING is raised (R154, R164), and a part not UNCONFIGURED takes the assertion of R148:
it enters EMERGENCY, whose SAFE condition the empty table meets in the same event (R149). The same holds of the effect
within the event of another command, behind the answers and functions that event has already given. -/
def Obligations.SoftResetTakesEffect : Prop :=
  ∀ (s : State) (w : WriteInProgress), s.softResetDue = true → s.port.write = some w →
    let after (answers : List Answer) (link : List Spi) (x : PowerState) (more : BitVec 32) : State :=
      { s with
        port := { s.port with reads := [], write := none, lastRefusal := none, lanesOpen := true },
        control := { s.control with overlay := none, softReset := false },
        rule := { s.rule with lastUrgent := none },
        capture := CaptureUnit.initial,
        staging := Staging.initial,
        seq := { Sequencer.initial with st := if s.seq.st = .stalled then .stalled else .idle },
        power := { st := x, policy := PowerPolicy.default, drainExpiry := none, lastDrain := none,
                   pwrwarn := s.power.pwrwarn },
        time := { tick := s.time.tick, subTick := if s.time.timing.prescaler = 100 then s.time.subTick else 0,
                  timing := TimingSettings.default },
        events := { flags := (if s.seq.st = .stalled then eventMask .flashStall else 0) ||| more, enables := 0x00023000 },
        answers := answers ++ [writeAnswer w.req (.ok [])],
        link := link }
    let fresh := after [] []
    (s.power.pwrwarn = false →
      Reaches .softResetTakesEffect s (fresh (if s.power.st = .unconfigured then .unconfigured else .run) 0)) ∧
    (s.power.pwrwarn = true → s.power.st = .unconfigured →
      Reaches .softResetTakesEffect s (fresh .unconfigured (eventMask .powerWarning))) ∧
    (s.power.pwrwarn = true → s.power.st ≠ .unconfigured →
      Reaches .softResetTakesEffect s (fresh .safe (eventMask .powerWarning ||| eventMask .safeReached))) ∧
    s.softResetEffect = after s.answers s.link
      (if s.power.st = .unconfigured then .unconfigured else if s.power.pwrwarn = true then .emergency else .run)
      (if s.power.pwrwarn = true then eventMask .powerWarning else 0)

/-! ### Supply, RESET pin, start-up -/

/-- Power loss, the RESET pin and power-on (R182, R84, R177 to R180). Power loss and the RESET assertion leave every
block at its power-on values, in which the key, the enable, the fence, the levels of PWRWARN and GUARD and the waiting
requests stay until start-up (the model's reading, log entries 5, 7 and 20); a fuse programming cut short leaves any mixture of the bits asked for, a free value (log
entry 9). Power that comes on and the release of RESET begin start-up: with an invalid PROFILE group it ends
UNCONFIGURED with the lanes open; with a valid one WAKE is issued and the wake delay begins, which at 0 ends in the
event. Power-on of a powered part is a power cycle, and a release of RESET without an assertion does nothing (log
entry 12). Power-on of the part as delivered leads to State.reset: the part starts UNCONFIGURED with the lanes open (R177,
R178, R182), whatever the flash shows. The PROFILE group is valid in the cases R178 gives (Table 11-12). -/
def Obligations.StartUp : Prop :=
  (∀ p : List Byte,
     let at0 (i : Nat) : Nat := (byteAt p i).toNat
     profileValid p = true ↔
       (1 ≤ at0 0 ∧ at0 0 ≤ 5) ∧ (at0 1 = 3 ∨ at0 1 = 4) ∧ at0 11 ≤ 4 ∧ at0 12 / 16 ≤ 1 ∧
       (at0 12 % 16 ≤ 7 ∧ at0 13 ≤ 7 ∧ at0 14 ≤ 7) ∧
       (at0 12 % 16 ≠ at0 13 ∧ at0 12 % 16 ≠ at0 14 ∧ at0 13 ≠ at0 14)) ∧
  (∀ (s : State) (st : Byte),
     ((∀ w job, s.port.write = some w → w.stage ≠ .fuseProgramming job) →
       exec .powerLoss s = .next { s.blank with powered := false } ∧
       exec .resetPinAssertion s = .next { s.blank with resetHeld := true }) ∧
     (∀ w job, s.port.write = some w → w.stage = .fuseProgramming job →
       ∃ taken : List Byte, taken.length = job.data.length ∧
         let torn := s.fuses.setGroup job.group (addBits (s.fuses.group job.group) job.offset
           (List.zipWith (· &&& ·) job.data taken))
         exec .powerLoss s = .next { s.blank with powered := false, fuses := torn, draws := s.draws + 1 } ∧
         exec .resetPinAssertion s = .next { s.blank with resetHeld := true, fuses := torn, draws := s.draws + 1 }) ∧
     (∀ (c : Instr) (b : State),
       ((c = .powerOn st ∧ s.powered = false ∧ s.resetHeld = false ∧ b = { s.blank with powered := true }) ∨
         (c = .resetPinRelease st ∧ s.powered = true ∧ s.resetHeld = true ∧ b = { s.blank with resetHeld := false })) →
       let p := s.fuses.profile
       let delay := (byteAt p 15).toNat
       let waking := (b.fusesRead (some p)).setSeqSt (.waking (tickAfter 0 delay))
       let woken := { waking with link := [{ fn := .wake, opcode := byteAt p 10, addr := [], dummies := 0, data := [], reads := 0 }] }
       (profileValid p = false → Reaches c s (((b.fusesRead none).setPowerSt .unconfigured).setLanes true)) ∧
       (profileValid p = true → delay ≠ 0 → exec c s = .next woken) ∧
       (profileValid p = true → delay = 0 → Reaches c s (woken.firstStatus st))) ∧
     (s.powered = false → s.resetHeld = true → exec (.powerOn st) s = .next { s.blank with powered := true }) ∧
     (s.powered = true → ∀ t, exec .powerLoss s = .next t → exec (.powerOn st) s = exec (.powerOn st) t) ∧
     (s.resetHeld = false → Reaches (.resetPinRelease st) s s.clearOut) ∧
     (s.powered = false → s.resetHeld = true → Reaches (.resetPinRelease st) s { s.clearOut with resetHeld := false })) ∧
  (∀ st : Byte, exec (.powerOn st) State.reset = .next State.reset ∧
     exec (.powerOn st) { State.reset.blank with powered := false } = .next State.reset)

/-- The end of the wake delay and the start-up wait's limit (R78, R183 to R185). Outside start-up the sequencer is
IDLE and WAKING becomes RUN. In start-up the status is read: ready ends start-up, busy begins the start-up wait,
suspended resumes the flash once and raises STARTUP_RESUMED. The limit ends start-up STALLED with FLASH_STALL. Start-up
ends in RUN with the lanes open; with PWRWARN high the assertion is taken in the same event, before a waiting request is
accepted (the model's reading, log entry 14). Away from their ticks both commands do nothing (log entry 2). -/
def Obligations.WakeAndStartUpWait : Prop :=
  ∀ (s : State) (st : Byte),
    let u := s.clearOut
    let v := u.issueStatus
    let ended (x : State) (q : SeqState) := ((x.setSeqSt q).setPowerSt .run).setLanes true
    let begun (x : State) (r : Bool) := x.setSeqSt (.startupWait (tickAfter s.now 4000) r)
    (s.seq.st = .waking s.now → s.power.st ≠ .starting →
      Reaches (.wakeEnd st) s ((u.setSeqSt .idle).setPowerSt (if s.power.st = .waking then .run else s.power.st))) ∧
    (s.seq.st = .waking s.now → s.power.st = .starting →
      (s.shown st = .ready → s.power.pwrwarn = false → Reaches (.wakeEnd st) s (ended v .idle)) ∧
      (s.shown st = .ready → s.power.pwrwarn = true →
        Reaches (.wakeEnd st) s ((ended v .idle).raise .powerWarning).enterEmergency) ∧
      (s.shown st = .busy → Reaches (.wakeEnd st) s (begun v false)) ∧
      (s.shown st = .suspended →
        Reaches (.wakeEnd st) s (begun ((v.issueBare .resume).raise .startupResumed) true))) ∧
    (s.seq.st ≠ .waking s.now → Reaches (.wakeEnd st) s u) ∧
    (∀ r, s.seq.st = .startupWait s.now r →
      (s.power.pwrwarn = false → Reaches .startupWaitLimit s (ended (u.raise .flashStall) .stalled)) ∧
      (s.power.pwrwarn = true → Reaches .startupWaitLimit s
        ((ended (u.raise .flashStall) .stalled).raise .powerWarning).enterEmergency)) ∧
    ((∀ r, s.seq.st ≠ .startupWait s.now r) → Reaches .startupWaitLimit s u)

/-! ### Requests at the port -/

/-- READ_REQUEST (R82 to R90): a read is accepted while the lanes are open and fewer than 4 reads are held, and waits
otherwise; the span and window check, UNCONFIGURED, the rules, the hazard, and from the overlay on the cases of
`Continues`, one of which always applies. In UNCONFIGURED a read waits on a hazard as any other (R88, R180), and is then
served from the overlay or refused (R83). A read of a line of the overlay gets the reply's bytes, 00H past the reply's
end (R89). That a read in UNCONFIGURED has no decision, and that a line operand stands for the line it falls in, is the
model's reading and choice (log entries 13 and 16). -/
def Obligations.ReadRequestTakesItsStages : Prop :=
  (∀ (s : State) (req : ReadReq),
     (s.control.overlay = none → s.overlayBytes req = none) ∧
     ∀ o, s.control.overlay = some o →
       let first := o.line.toNat / 64
       let l := req.line.toNat / 64
       (first ≤ l ∧ l < first + o.count → ∃ bs, s.overlayBytes req = some bs ∧ bs.length = req.length ∧
         ∀ k, k < req.length → bs[k]? = some ((o.bytes[(l - first) * 64 + req.offset + k]?).getD 0x00)) ∧
       (¬ (first ≤ l ∧ l < first + o.count) → s.overlayBytes req = none)) ∧
  ∀ (s : State) (line : Addr) (offset length : Nat), s.atRest →
    let c := Instr.readRequest line offset length
    let req : ReadReq := { line := lineOf line, offset := offset, length := length }
    let tag := freshTag s.port.reads
    let u := s.clearOut
    let d := s.decisionFor .read req.line
    let v := u.noteUrgent d
    let push (x : State) (d : Option Decision) (stage : ReadStage) : State :=
      x.setReads (s.port.reads ++ [{ tag := tag, req := req, decision := d, stage := stage }])
    ((s.port.lanesOpen = false ∨ 4 ≤ s.port.reads.length) →
      exec c s = .next (u.withPort { s.port with waitReads := s.port.waitReads ++ [req] })) ∧
    (s.port.lanesOpen = true → s.port.reads.length < 4 →
      (64 < offset + length → Reaches c s (push u none (.resolved (.err .badSpan)))) ∧
      (offset + length ≤ 64 → s.power.st = .unconfigured →
        (s.hazard req.line = true → Reaches c s (push u none .waitingHazard)) ∧
        (∀ bs, s.hazard req.line = false → s.overlayBytes req = some bs →
          Reaches c s (push u none (.resolved (.ok bs .overlay)))) ∧
        (s.hazard req.line = false → s.overlayBytes req = none →
          Reaches c s (push u none (.resolved (.err .unconfigured))))) ∧
      (offset + length ≤ 64 → s.power.st ≠ .unconfigured → s.pastWindow req.line offset length = true →
        Reaches c s (push u none (.resolved (.err .badSpan)))) ∧
      (offset + length ≤ 64 → s.power.st ≠ .unconfigured → s.pastWindow req.line offset length = false →
        (d.action = .deny → Reaches c s (push v (some d) (.resolved (.err .deniedRule)))) ∧
        (d.action ≠ .deny → s.hazard req.line = true → Reaches c s (push v (some d) .waitingHazard)) ∧
        (d.action ≠ .deny → s.hazard req.line = false →
          (∃ x, Continues (push v (some d) .resolving) tag req x) ∧
          ∀ x, Continues (push v (some d) .resolving) tag req x → Reaches c s x)))

/-- READ_ANSWER (R86, R93, R102, R122): the oldest read, once RESOLVED, leaves the queue with its answer; a decision
with a capture target puts its record, outcome SERVED or the refusal; an ERR answer replaces the last refusal record
and raises ACCESS_REFUSED. HAZARD_RELEASE (R88): a read that waits on a write which is answered continues from the overlay stage, several in queue
order; without one nothing happens (the model's choices, log entries 22 and 2). -/
def Obligations.ReadAnswersAndHazardReleases : Prop :=
  (∀ (s : State) (r : Read) (rest : List Read), s.port.reads = r :: rest →
     let answer (x : AnswerResult) : Answer :=
       { access := .read, line := r.req.line, offset := r.req.offset, length := r.req.length, result := x }
     let given (x : AnswerResult) : State := (s.clearOut.setReads rest).giveAnswer (answer x)
     let captured (x : State) (o : CaptureOutcome) : State := match r.decision with
       | some { capture := some q, rule := i, .. } => x.putRecord q false
           { number := 0, tick := s.now, access := .read, line := r.req.line, offset := r.req.offset,
             length := r.req.length, rule := i, outcome := o, data := none }
       | _ => x
     (∀ bs src, r.stage = .resolved (.ok bs src) → Reaches .readAnswer s (captured (given (.ok bs)) .served)) ∧
     (∀ reason, r.stage = .resolved (.err reason) →
       let x := captured (given (.err reason)) (.refused reason)
       Reaches .readAnswer s
         { x with
           port := { x.port with lastRefusal := some { reason := reason, access := .read, line := r.req.line,
                                                       rule := r.decision.map (·.rule), tick := s.now } }
           events := { x.events with flags := x.events.flags ||| eventMask .accessRefused } }) ∧
     ((∀ x, r.stage ≠ .resolved x) → Reaches .readAnswer s s.clearOut)) ∧
  (∀ s : State,
     (∃ x, ContinueInTurn s.clearOut (s.port.reads.filter s.hazardOver) x) ∧
     (∀ x, ContinueInTurn s.clearOut (s.port.reads.filter s.hazardOver) x → Reaches .hazardRelease s x) ∧
     (∀ r : Read, s.hazardOver r = true ↔
       r.stage = .waitingHazard ∧ ∀ w, s.port.write = some w → w.req.line ≠ r.req.line) ∧
     (s.port.reads.filter s.hazardOver = [] → Reaches .hazardRelease s s.clearOut))

/-- WRITE_REQUEST (R82, R83, R94 to R97, R166 to R168, R186): a write is accepted into a free lane and waits otherwise;
the span and window check; a keyed line whose check holds is a control record: its hold timer stops, an overlay ends, the
reads that held its bytes being resolved afresh (several the oldest first: log entry 22), and the command of byte 8 is executed with bytes 9 to 61, of which those
after the last argument have no effect; one whose check fails raises CONTROL_CHECK_FAILED and passes on as an ordinary
write; then the stages of `Admits`, one case of which always applies. WRITE_RELEASE (R98, R146, R16, R21): a write held WAKING continues at the fence stage when the power state is RUN;
one held COMMITTING or NO_ENTRY continues at the staging stage when its sector's entry is no longer COMMITTING, or a
place is FREE or CLEAN. Otherwise nothing happens (the model's choices, log entries 2 and 16). -/
def Obligations.WritesTakeTheirStages : Prop :=
  ((∀ (key : List Byte) (req : WriteReq) (bs : List Byte), keyedLine key req = some bs ↔
      req.offset = 0 ∧ req.bytes = bs.map some ∧ bs.length = 64 ∧ bs.take 8 = key) ∧
   (∀ bs : List Byte, checkHolds bs = true ↔
      bs.drop 62 = [(crc16 ((bs.drop 8).take 54)).extractLsb' 8 8, (crc16 ((bs.drop 8).take 54)).extractLsb' 0 8]) ∧
   (∀ (room : Nat) (code : Byte) (a b : List Byte) (s : State), a.length = 53 → b.length = 53 →
      a.take (argumentBytes code) = b.take (argumentBytes code) → execCode room code a s = execCode room code b s)) ∧
  (∀ (s : State) (line : Addr) (offset : Nat) (bytes : List (Option Byte)) (g : Bool), s.atRest →
     let c := Instr.writeRequest line offset bytes g
     let req : WriteReq := { line := lineOf line, offset := offset, bytes := bytes }
     let u := s.clearOut.setGuard g
     let w := s.accepted req
     ((s.port.lanesOpen = false ∨ s.port.write ≠ none) →
       exec c s = .next (u.withPort { s.port with waitWrites := s.port.waitWrites ++ [req] })) ∧
     (s.ReadyToWrite →
       (s.badSpan req = true → Reaches c s ((u.setWrite (some w)).refuseWrite w .badSpan)) ∧
       (s.badSpan req = false → (s.control.enable = false ∨ keyedLine s.control.key req = none) →
         (∃ x, Admits (u.setWrite (some w)) w x) ∧ ∀ x, Admits (u.setWrite (some w)) w x → Reaches c s x) ∧
       (∀ bs, s.badSpan req = false → s.control.enable = true → keyedLine s.control.key req = some bs → checkHolds bs = false →
         let v := (u.setWrite (some w)).raise .controlCheckFailed
         (∃ x, Admits v w x) ∧ ∀ x, Admits v w x → Reaches c s x) ∧
       (∀ bs, s.badSpan req = false → s.control.enable = true → keyedLine s.control.key req = some bs → checkHolds bs = true →
         let ended := (u.setWrite (some { w with hold := none, stage := .control })).withControl
           { s.control with overlay := none }
         let executed (x : State) : State :=
           finishCommand (byteAt bs 8) (execCode (roomAt req.line) (byteAt bs 8) ((bs.drop 9).take 53) x)
         ((s.control.overlay = none ∨ s.port.reads.all (fun r => !r.fromOverlay) = true) → Reaches c s (executed ended)) ∧
         (∀ o, s.control.overlay = some o →
           (∃ x, ResolvesAfresh ended (s.port.reads.filter Read.fromOverlay) x) ∧
           ∀ x, ResolvesAfresh ended (s.port.reads.filter Read.fromOverlay) x → Reaches c s (executed x))))) ∧
  (∀ s : State,
     (∀ w, s.port.write = some w →
       (w.stage = .held .waking → s.power.st = .run →
         (∃ x, Decides s.clearOut w x) ∧ ∀ x, Decides s.clearOut w x → Reaches .writeRelease s x) ∧
       (w.stage = .held .committing →
         (∀ i, s.staging.find (sectorOf w.req.line) = some i → (s.staging.entry i).isCommitting = false) →
         (∃ x, Stages s.clearOut w x) ∧ ∀ x, Stages s.clearOut w x → Reaches .writeRelease s x) ∧
       (w.stage = .held .noEntry → s.staging.place s.now ≠ none →
         (∃ x, Stages s.clearOut w x) ∧ ∀ x, Stages s.clearOut w x → Reaches .writeRelease s x)) ∧
     (s.canReleaseWrite = false → Reaches .writeRelease s s.clearOut))

/-- What a merge does (R7, R11 to R14, R18, Table 1-5): the selected bytes are written and no other, the base image is
not touched, the last-write and last-use ticks are set, and the entry's state follows Table 1-4. The first-write tick
is set when the merge makes the entry hold unwritten data. -/
def Obligations.MergesFollowTheEntryState : Prop :=
  (∀ (img : Image) (off k : Nat) (bytes : List (Option Byte)), Memory.wf img = true → off + bytes.length ≤ 4096 →
    Memory.wf (imgMerge img off bytes) = true ∧
    imgRead (imgMerge img off bytes) k =
      if off ≤ k then ((bytes[k - off]?).join).getD (imgRead img k) else imgRead img k) ∧
  (∀ (now : Tick) (t : TimingSettings) (off : Nat) (bytes : List (Option Byte)) (d : Sector),
    let d' : Sector := { d with work := imgMerge d.work off bytes, lastWrite := now, lastUse := now }
    let idle := if t.idleClose = 0 then none else some (now + t.idleClose.setWidth 32)
    let fresh := if t.ageClose = 0 then none else some (now + t.ageClose.setWidth 32)
    let merged (age : Option Tick) : Option Entry :=
      if hasDirty d' then
        if hasDirty d then some (.opened d' { idle := idle, age := age })
        else some (.opened { d' with firstWrite := now } { idle := idle, age := fresh })
      else some (.opened d' { idle := idle, age := none })
    (∀ tm, mergeEntry now t off bytes (.opened d tm) = merged tm.age) ∧
    (mergeEntry now t off bytes (.clean d) = merged none) ∧
    (∀ c, mergeEntry now t off bytes (.closed d c) = some (.closed d' c)) ∧
    (∀ f, ∃ written, mergeEntry now t off bytes (.filling d f) =
      some (.filling d' { f with written := written, timers := { idle := idle, age := f.timers.age } }) ∧
      ∀ k, k ∈ written ↔ k ∈ f.written ∨ (off ≤ k ∧ ∃ b, bytes[k - off]? = some (some b))) ∧
    (∀ c p, mergeEntry now t off bytes (.committing d c p) = none) ∧
    (∀ r, mergeEntry now t off bytes (.faulted d r) = none) ∧
    (∀ n, ∃ written, allocatedEntry now t n off bytes =
      .filling { number := n, base := [], work := imgMerge [] off bytes, firstWrite := now, lastWrite := now, lastUse := now }
        { written := written, closeOnFill := none, timers := { idle := idle, age := fresh }, idlePending := false,
          agePending := false } ∧
      ∀ k, k ∈ written ↔ (off ≤ k ∧ ∃ b, bytes[k - off]? = some (some b))))

/-- How a write is answered (R100, R101, R102, R123, R127, R136, R92). OK: the lane empties, the record of the whole
span is put into the decision's queue, a LATCH decision fills its slot, held results for the line take the bytes
written and no other, an overlay one of whose lines is written ends, the reads that held its bytes being resolved afresh
(R171), several the oldest first (the model's choice, log entry 22). ERR: the reservation is released, the refused record is put, the last refusal record replaced, and no field
of any entry changes. A merge is followed in DRAIN and EMERGENCY by a close of the entry, and then the write is answered
OK with the merged image (R17). -/
def Obligations.WriteAnswersHaveTheirEffects : Prop :=
  ∀ (s : State) (w : WriteInProgress),
    (∀ (work : Image),
      let data := imgSpan work (sectorOffset w.req.line w.req.offset) w.req.bytes.length
      let a := (s.setWrite none).giveAnswer
        { access := .write, line := w.req.line, offset := w.req.offset, length := w.req.bytes.length, result := .ok [] }
      let captured : State := match w.decision with
        | some { capture := some q, rule := i, captureData := keep, .. } => a.putRecord q true
            { number := 0, tick := s.now, access := .write, line := w.req.line, offset := w.req.offset,
              length := w.req.bytes.length, rule := i, outcome := .absorbed, data := if keep then some data else none }
        | _ => a
      let latched : State := match w.decision with
        | some { action := .latch n, rule := i, .. } =>
            let slot : LatchSlot :=
              { isNew := true, record := some { line := w.req.line, offset := w.req.offset, data := data, tick := s.now,
                                                rule := i.number } }
            (captured.withCapture { captured.capture with slots := captured.capture.slots.set n slot }).raise .slotFilled
        | _ => captured
      let updated := latched.setReads (s.port.reads.map (updateResult w.req))
      let onOverlay (o : Overlay) : Prop :=
        o.line.toNat / 64 ≤ w.req.line.toNat / 64 ∧ w.req.line.toNat / 64 < o.line.toNat / 64 + o.count
      ((∀ o, s.control.overlay = some o → ¬ onOverlay o) → s.answerWrite w work = updated) ∧
      (∀ o, s.control.overlay = some o → onOverlay o →
        let ended := updated.withControl { s.control with overlay := none }
        (∃ x, ResolvesAfresh ended (updated.port.reads.filter Read.fromOverlay) x) ∧
        ∀ x, ResolvesAfresh ended (updated.port.reads.filter Read.fromOverlay) x → s.answerWrite w work = x)) ∧
    (∀ r : Read, r.fromOverlay = true ↔ ∃ bs, r.stage = .resolved (.ok bs .overlay)) ∧
    (∀ r : Read,
      (∀ bs src, r.stage = .resolved (.ok bs src) → r.req.line = w.req.line →
        ∃ new, updateResult w.req r = { r with stage := .resolved (.ok new src) } ∧ new.length = bs.length ∧
          ∀ k, k < bs.length → new[k]? = some (
            (if w.req.offset ≤ r.req.offset + k then (w.req.bytes[r.req.offset + k - w.req.offset]?).join else none).getD
              (byteAt bs k))) ∧
      (((∀ bs src, r.stage ≠ .resolved (.ok bs src)) ∨ r.req.line ≠ w.req.line) → updateResult w.req r = r)) ∧
    (∀ (i : Nat) (e : Entry) (d : Sector), e.data? = some d →
      let merged := s.staging.setEntry i e
      s.landWrite w i e = (s.withStaging (match s.power.st with
        | .drain => merged.close .drain i
        | .emergency => merged.close .emergency i
        | _ => merged)).answerWrite w d.work) ∧
    (∀ reason : RefusalReason,
      let a := (s.setWrite none).giveAnswer
        { access := .write, line := w.req.line, offset := w.req.offset, length := w.req.bytes.length, result := .err reason }
      let captured : State := match w.decision with
        | some { capture := some q, rule := i, .. } =>
            (a.withCapture (a.capture.setQueue q { a.capture.queue q with reserved := false })).putRecord q false
              { number := 0, tick := s.now, access := .write, line := w.req.line, offset := w.req.offset,
                length := w.req.bytes.length, rule := i, outcome := .refused reason, data := none }
        | _ => a
      s.refuseWrite w reason =
        { captured with
          port := { captured.port with lastRefusal := some { reason := reason, access := .write, line := w.req.line,
                                                             rule := w.decision.map (·.rule), tick := s.now } }
          events := { captured.events with flags := captured.events.flags ||| eventMask .accessRefused } } ∧
      (s.refuseWrite w reason).staging = s.staging)

/-! ### The rule unit and the capture unit -/

/-- The decision of a request (R109 to R111, R113): the lowest-indexed enabled rule that matches the line, covers the
access and is not a LATCH into a slot whose NEW flag is set; the default decision when there is none. An urgent decision
(R112) raises URGENT_ACCESS and makes its rule the last urgent rule, and nothing else, in the event of the decision,
whatever the request's fate; a decision that is not urgent changes nothing. -/
def Obligations.TheFirstDecidingRuleDecides : Prop :=
  ∀ (s : State) (access : Access) (line : Addr),
    let decides (r : Rule) : Prop :=
      r.enabled = true ∧
      (match r.kind with
        | .range => r.addr1.toNat ≤ line.toNat ∧ line.toNat ≤ r.addr2.toNat
        | .pair => line = r.addr1 ∨ line = r.addr2
        | .mask => ∀ b, 6 ≤ b → b < 24 → r.addr2.getLsbD b = true → line.getLsbD b = r.addr1.getLsbD b) ∧
      (r.applies = .both ∨ (r.applies = .reads ∧ access = .read) ∨ (r.applies = .writes ∧ access = .write)) ∧
      (r.action = .latch → ∀ x, s.capture.slots[r.slot]? = some x → x.isNew = false)
    (∀ i r, s.rule.rules[i]? = some r → decides r →
      (∀ j r', j < i → s.rule.rules[j]? = some r' → ¬ decides r') →
      s.decisionFor access line =
        { rule := .rule i,
          action := (match r.action with | .absorb => .absorb | .deny => .deny | .latch => .latch r.slot),
          capture := r.capture, captureData := r.captureData, urgent := r.urgent }) ∧
    ((∀ r ∈ s.rule.rules, ¬ decides r) →
      s.decisionFor access line = { rule := .default, action := if s.rule.defaultDeny then .deny else .absorb,
                                    capture := s.rule.defaultCapture, captureData := false, urgent := false }) ∧
    (∀ i d, d.rule = .rule i → d.urgent = true → s.noteUrgent d =
      { s with rule := { s.rule with lastUrgent := some i },
               events := { s.events with flags := s.events.flags ||| eventMask .urgentAccess } }) ∧
    (∀ d, d.urgent = false → s.noteUrgent d = s) ∧
    (∀ a : Addr, line = lineOf a → s.atRest → s.port.lanesOpen = true →
      let noted (i : Nat) (x : State) : Prop := x.rule.lastUrgent = some i ∧ x.flagSet .urgentAccess = true
      let urgent (access : Access) (i : Nat) : Prop :=
        (s.decisionFor access line).rule = .rule i ∧ (s.decisionFor access line).urgent = true
      (∀ offset length i, s.port.reads.length < 4 → offset + length ≤ 64 → s.power.st ≠ .unconfigured →
        s.pastWindow line offset length = false → urgent .read i →
        ∃ x, noted i x ∧ Reaches (.readRequest a offset length) s x) ∧
      (∀ offset bytes g i, s.port.write = none → s.badSpan { line := line, offset := offset, bytes := bytes } = false →
        (s.control.enable = false ∨ keyedLine s.control.key { line := line, offset := offset, bytes := bytes } = none) →
        s.power.st = .run → urgent .write i → ∃ x, noted i x ∧ Reaches (.writeRequest a offset bytes g) s x))

/-- The protected area of a fence (R104, R105): nothing for size code 0, the whole flash for 7, and for 1 to 6 the
lowest or highest part of 1/64 to 1/2 of it; the invert flag takes the rest. A line inside the area is in the fence.
And the window itself (R82, R83, R178, R39): the size code 1 to 5 of the profile in use gives 1 to 16 MiB, no profile in
use no window; a request fails the span and window check when its span leaves its line, selects no byte or ends at or
beyond the window size; a sector lies beyond the flash when its first byte does. -/
def Obligations.FenceProtectsItsArea : Prop :=
  (∀ s : State,
     (s.profile = none → s.windowSize = none) ∧
     (∀ p, s.profile = some p → ∀ x ∈ [(0x01, 1), (0x02, 2), (0x03, 4), (0x04, 8), (0x05, 16)],
       byteAt p 0 = x.1 → s.windowSize = some (x.2 * 1048576)) ∧
     (∀ line offset length, s.pastWindow line offset length = true ↔
       ∃ f, s.windowSize = some f ∧ f ≤ line.toNat + offset + length - 1) ∧
     (∀ req : WriteReq, s.badSpan req = true ↔ 64 < req.offset + req.bytes.length ∨ (∀ b ∈ req.bytes, b = none) ∨
       s.pastWindow req.line req.offset req.bytes.length = true) ∧
     (∀ n, s.beyondSectors n = true ↔ ∃ f, s.windowSize = some f ∧ f ≤ n * 4096)) ∧
  ∀ (s : State) (f : Nat) (line : Addr), s.windowSize = some f → s.rule.fence.size ≤ 7 →
    let n := s.rule.fence.size
    let e := if n = 0 then 0 else f / 2 ^ (7 - n)
    let low := line.toNat < e
    let high := f - e ≤ line.toNat ∧ line.toNat < f
    (s.rule.fence.side = .low → s.rule.fence.invert = false → (s.inFence line = true ↔ low)) ∧
    (s.rule.fence.side = .high → s.rule.fence.invert = false → (s.inFence line = true ↔ high)) ∧
    (s.rule.fence.side = .low → s.rule.fence.invert = true → (s.inFence line = true ↔ ¬ low ∧ line.toNat < f)) ∧
    (s.rule.fence.side = .high → s.rule.fence.invert = true → (s.inFence line = true ↔ line.toNat < f - e))

/-- A put (R125, R126, R128, R130): with room the record is appended with the queue's next number; into its
reservation it leaves the occupancy as it was; into a full OVERWRITE queue it replaces the head; a full LOSSY or
STRICT queue drops it. The last two set the dropped flag and raise CAPTURE_DROPPED. -/
def Obligations.PutsFollowTheModeOfTheQueue : Prop :=
  ∀ (n : QueueName) (now : Tick) (stale : Half) (useReserved : Bool) (r : CaptureRecord) (q : CaptureQueue),
    let room := decide (q.records.length + (if q.reserved then 1 else 0) < Config.queueCapacity n)
    let placed := useReserved && q.reserved
    let r' : CaptureRecord := { r with number := q.next }
    let timer := if q.records = [] then (if stale = 0 then none else some (now + stale.setWidth 32)) else q.staleExpiry
    let count := q.records.length + 1
    (placed = true ∨ room = true →
      (q.put n now stale useReserved r).1 =
        { q with records := q.records ++ [r'], next := q.next + 1, reserved := q.reserved && !placed, staleExpiry := timer } ∧
      (q.put n now stale useReserved r).2 =
        (if count = q.watermark then [.captureWatermark n] else []) ++
        (if count = Config.queueCapacity n then [.captureFull n] else [])) ∧
    (placed = false → room = false → q.mode = .overwrite →
      q.put n now stale useReserved r =
        ({ q with records := q.records.tail ++ [r'], next := q.next + 1, dropped := true }, [.captureDropped n])) ∧
    (placed = false → room = false → q.mode ≠ .overwrite →
      q.put n now stale useReserved r = ({ q with dropped := true }, [.captureDropped n]))

/-- The event flags and the output lines (R160, R161, R153): a raise sets the event's own flag and no other, whatever
the enables; IRQ is high while a set flag is enabled; DIRTY is high while an entry holds unwritten data, as R6 says
which does. The events stand at bits 0 to 20 in the order of Table 11-2. -/
def Obligations.FlagsAndLines : Prop :=
  ([.captureWatermark .a, .captureWatermark .b, .captureFull .a, .captureFull .b, .captureDropped .a, .captureDropped .b,
    .captureStale .a, .captureStale .b, .slotFilled, .urgentAccess, .accessRefused, .holdExpired, .mediaFault, .flashStall,
    .retryHalf, .sleepEntered, .sleepFailed, .powerWarning, .safeReached, .controlCheckFailed, .startupResumed].map eventBit =
      List.range 21 ∧
    ∀ (s : State) (e : Event), s.flagSet e = s.events.flags.getLsbD (eventBit e) ∧ eventMask e = 1 <<< eventBit e) ∧
  (∀ (s : State) (e : Event),
    (s.raise e).flagSet e = true ∧ (∀ x, x ≠ e → (s.raise e).flagSet x = s.flagSet x) ∧
    (s.raise e).events.enables = s.events.enables) ∧
  (∀ s : State, s.irqLine = true ↔ ∃ i, s.events.flags.getLsbD i = true ∧ s.events.enables.getLsbD i = true) ∧
  (∀ s : State, (∀ e ∈ s.staging.entries, ∀ d, e.data? = some d → Memory.wf d.base = true ∧ Memory.wf d.work = true) →
    (s.dirtyLine = true ↔ ∃ e ∈ s.staging.entries, match e with
      | .filling _ _ => True
      | .closed _ _ => True
      | .committing _ _ _ => True
      | .faulted _ _ => True
      | .opened d _ => ∃ k, imgRead d.work k ≠ imgRead d.base k
      | _ => False))

/-! ### Closing and committing -/

/-- A close acts by the entry's state (R9), and touches no other entry. -/
def Obligations.ClosesFollowTheEntryState : Prop :=
  ∀ (g : Staging) (i : Nat) (c : CloseCause), i < g.entries.length →
    (∀ j, j ≠ i → (g.close c i).entry j = g.entry j) ∧
    (∀ d t, g.entry i = .opened d t → hasDirty d = true →
      (g.close c i).entry i = .closed d c ∧ (g.close c i).closeQueue = g.closeQueue ++ [i]) ∧
    (∀ d t, g.entry i = .opened d t → hasDirty d = false →
      (g.close c i).entry i = .clean d ∧ (g.close c i).closeQueue = g.closeQueue) ∧
    (∀ d f, g.entry i = .filling d f →
      (g.close c i).entry i = .filling d { f with closeOnFill := some (f.closeOnFill.getD c) } ∧
      (g.close c i).closeQueue = g.closeQueue) ∧
    ((∀ d t, g.entry i ≠ .opened d t) → (∀ d f, g.entry i ≠ .filling d f) → g.close c i = g)

/-- The order by a tick (R8): the entry picked has the greatest elapsed time among those that carry the tick, and
among equals the lowest number. An allocation takes the lowest-numbered FREE entry (R18), and without one the CLEAN
entry of the oldest last-use tick (R19); pressure closes the OPEN entry with unwritten data of the oldest first-write
tick (R20). -/
def Obligations.TheOldestEntryIsPicked : Prop :=
  (∀ (g : Staging) (now : Tick),
     let oldest (tick : Nat → Tick → Prop) (i : Nat) : Prop := ∃ t, tick i t ∧
       ∀ j u, tick j u → (now - u).toNat ≤ (now - t).toNat ∧ (j < i → (now - u).toNat < (now - t).toNat)
     let clean (i : Nat) (t : Tick) : Prop := ∃ d, g.entry i = .clean d ∧ d.lastUse = t
     let dirty (i : Nat) (t : Tick) : Prop := ∃ d x, g.entry i = .opened d x ∧ hasDirty d = true ∧ d.firstWrite = t
     (∀ i, g.entries[i]? = some .free → (∀ j, j < i → g.entries[j]? ≠ some .free) → g.place now = some i) ∧
     ((∀ e ∈ g.entries, e ≠ .free) →
       (∀ i, g.place now = some i ↔ oldest clean i) ∧ (g.place now = none ↔ ∀ i t, ¬ clean i t)) ∧
     (∀ i, g.pressureEntry now = some i ↔ oldest dirty i) ∧
     (g.pressureEntry now = none ↔ ∀ i t, ¬ dirty i t)) ∧
  ∀ (key : Entry → Option Tick) (now : Tick) (es : List Entry),
    (∀ i x, pickOldest key now 0 es = some (i, x) →
      ∃ e t, es[i]? = some e ∧ key e = some t ∧ x = (now - t).toNat ∧
        (∀ j e' t', es[j]? = some e' → key e' = some t' → (now - t').toNat ≤ x ∧ (j < i → (now - t').toNat < x))) ∧
    (pickOldest key now 0 es = none ↔ ∀ e ∈ es, key e = none)

/-- A commit writes the working image (R5, R41, R42, Table 3-1): after the operations of the plan chosen, in order, on
a sector of the flash that holds the base image, the flash holds the working image. A plan with an erase does so from
whatever the flash held. The page list of a plan is in ascending order, and lists exactly the dirty pages, or after an
erase exactly the pages that are not entirely FFH. -/
def Obligations.CommitPlansWriteTheWorkingImage : Prop :=
  ∀ (d : Sector) (c : CloseCause), Memory.wf d.base = true → Memory.wf d.work = true →
    let plan := planOf d c
    (plan = .eraseThenProgram ↔ (c = .retry ∨ ∃ k b, (imgRead d.work k).getLsbD b = true ∧ (imgRead d.base k).getLsbD b = false)) ∧
    (∀ k, imgRead (flashAfterPlan d.work d.base plan (pageList d plan)) k = imgRead d.work k) ∧
    (∀ img k, Memory.wf img = true → plan = .eraseThenProgram →
      imgRead (flashAfterPlan d.work img plan (pageList d plan)) k = imgRead d.work k) ∧
    (firstStep plan (pageList d plan) = none → ∀ k, imgRead d.base k = imgRead d.work k) ∧
    (∀ q, (pageList d q).Pairwise (· < ·)) ∧
    (∀ p, p ∈ pageList d .programOnly ↔ p < 16 ∧ ∃ k, k / 256 = p ∧ imgRead d.work k ≠ imgRead d.base k) ∧
    (∀ p, p ∈ pageList d .eraseThenProgram ↔ p < 16 ∧ ∃ k, k / 256 = p ∧ imgRead d.work k ≠ 0xFF)

/-! ### The flash sequencer -/

/-- A read miss arrives (R62, R68, R71): it joins the tail of the read-miss queue, or of the service list in SUSPENDED.
In BUSY, where the policy, the power state and the budget allow, SUSPEND is issued at once when the resume spacing has
passed, and otherwise one deferred suspension is set for the tick at which it will have passed. -/
def Obligations.MissesArriveInOrder : Prop :=
  ∀ (s : State) (tag : Nat),
    let q := s.withSeq { s.seq with misses := s.seq.misses ++ [tag] }
    (∀ op service, s.seq.st = .suspended op service →
      s.missArrives tag = s.setSeqSt (.suspended op (service ++ [tag]))) ∧
    (∀ op, s.seq.st = .busy op →
      let budget := match op.step with | .erase => s.seq.policy.eraseBudget | .program _ => s.seq.policy.programBudget
      let may := s.seq.policy.suspendEnable = true ∧ s.power.st ≠ .emergency ∧ op.suspCount < budget ∧ s.control.softReset = false
      let passed := ∀ t, op.lastResume = some t → s.seq.policy.resumeSpacing ≤ (s.now - t).toNat
      (¬ may → s.missArrives tag = q) ∧
      (may → passed → s.missArrives tag = (q.issueBare .suspend).withSeq
        { q.seq with st := .suspending { op with suspCount := op.suspCount + 1 } (s.now + s.time.timing.suspendLimit.setWidth 32),
                     deferred := none }) ∧
      (∀ t, may → op.lastResume = some t → ¬ s.seq.policy.resumeSpacing ≤ (s.now - t).toNat →
        s.missArrives tag = if s.seq.deferred = none then
          q.withSeq { q.seq with deferred := some (tickAfter t s.seq.policy.resumeSpacing) } else q)) ∧
    ((∀ op service, s.seq.st ≠ .suspended op service) → (∀ op, s.seq.st ≠ .busy op) → s.missArrives tag = q)

/-- GRANT (R63 to R65, R41, R43, R77): the IDLE sequencer grants in class order, the oldest miss, then the next page of
the oldest fill, then the commit claim, then SLEEP; a commit claim that waited for the commit share's number of grants
comes first. A grant of a miss or fill counts the share while a commit claim waits; a commit grant zeroes it. Each
grant issues its functions on the link. Without an eligible claim nothing happens (the model's choice, log entry 2).
What the functions send (R58, Table 3-1): the profile's opcode, a flash address most significant byte first in the
profile's number of bytes, READ's dummy bytes, PROGRAM's 256 bytes, ARM right before an ERASE or PROGRAM. -/
def Obligations.GrantsFollowClassAndShare : Prop :=
  (∀ s : State,
     let p := s.profile.getD []
     let address (a : Nat) : List Byte :=
       (if byteAt p 1 = 4 then [BitVec.ofNat 8 (a / 16777216)] else []) ++
         [BitVec.ofNat 8 (a / 65536), BitVec.ofNat 8 (a / 256), BitVec.ofNat 8 a]
     let send (x : State) (l : List Spi) : State := { x with link := x.link ++ l }
     let bare (fn : FlashFn) (k : Nat) : Spi :=
       { fn := fn, opcode := byteAt p k, addr := [], dummies := 0, data := [], reads := 0 }
     (∀ a n, s.issueRead a n = send s
       [{ fn := .read, opcode := byteAt p 2, addr := address a, dummies := (byteAt p 11).toNat, data := [], reads := n }]) ∧
     (∀ n page work, s.issueProgram n page work = send s [bare .arm 5,
       { fn := .program, opcode := byteAt p 3, addr := address (n * 4096 + page * 256), dummies := 0,
         data := imgSpan work (page * 256) 256, reads := 0 }]) ∧
     (∀ n, s.issueErase n = send s [bare .arm 5,
       { fn := .erase, opcode := byteAt p 4, addr := address (n * 4096), dummies := 0, data := [], reads := 0 }]) ∧
     s.issueStatus = send s [{ bare .status 6 with reads := 1 }] ∧
     s.issueBare .suspend = send s [bare .suspend 7] ∧ s.issueBare .resume = send s [bare .resume 8] ∧
     s.issueBare .sleep = send s [bare .sleep 9] ∧ s.issueBare .wake = send s [bare .wake 10]) ∧
  ∀ s : State, s.seq.st = .idle → s.control.softReset = false →
    let u := s.clearOut
    let claim := s.staging.hasClaim
    let turn := claim = true ∧ s.seq.policy.commitShare ≤ s.seq.share
    let share := if claim = true then s.seq.share + 1 else 0
    let zero := u.withSeq { s.seq with share := 0 }
    let commit := turn ∨ (s.seq.misses = [] ∧ s.seq.fills = [] ∧ claim = true)
    (∀ tag rest r, ¬ turn → s.seq.misses = tag :: rest → s.readOf tag = some r →
      Reaches .grant s ((u.issueRead r.req.line.toNat 64).withSeq
        { s.seq with misses := rest, share := share, st := .reading (.miss tag) })) ∧
    (∀ f rest, ¬ turn → s.seq.misses = [] → s.seq.fills = f :: rest →
      Reaches .grant s ((u.issueRead (f.sector * 4096 + f.page * 256) 256).withSeq
        { s.seq with fills := if f.page = 15 then rest else { f with page := f.page + 1 } :: rest, share := share,
                     st := .reading (.fillPage f.sector f.page) })) ∧
    (∀ i d c p, commit → s.staging.committingIndex = some i → s.staging.entry i = .committing d c p →
      (p.step = .erase → Reaches .grant s ((zero.issueErase d.number).setSeqSt
        (.busy { step := .erase, timeLimit := s.time.timing.eraseLimit.toNat, busyTicks := 0, suspCount := 0, lastResume := none }))) ∧
      (∀ n, p.step = .program n → Reaches .grant s ((zero.issueProgram d.number n d.work).setSeqSt
        (.busy { step := .program n, timeLimit := s.time.timing.programLimit.toNat, busyTicks := 0, suspCount := 0,
                 lastResume := none }))) ∧
      (∀ n, p.step = .verify n → Reaches .grant s ((zero.issueRead (d.number * 4096 + n * 256) 256).setSeqSt
        (.reading (.verify n))))) ∧
    (∀ i rest d c, commit → s.staging.committingIndex = none → s.staging.closeQueue = i :: rest →
      s.staging.entry i = .closed d c →
      let plan := planOf d c
      let pages := pageList d plan
      let started (step : CommitStep) := zero.withStaging { s.staging with
        entries := s.staging.entries.set i (.committing d c { plan := plan, pages := pages, step := step, attempts := 1 }),
        closeQueue := rest }
      (plan = .eraseThenProgram → Reaches .grant s (((started .erase).issueErase d.number).setSeqSt
        (.busy { step := .erase, timeLimit := s.time.timing.eraseLimit.toNat, busyTicks := 0, suspCount := 0, lastResume := none }))) ∧
      (∀ n more, plan = .programOnly → pages = n :: more →
        Reaches .grant s (((started (.program n)).issueProgram d.number n d.work).setSeqSt
          (.busy { step := .program n, timeLimit := s.time.timing.programLimit.toNat, busyTicks := 0, suspCount := 0,
                   lastResume := none }))) ∧
      (plan = .programOnly → pages = [] → Reaches .grant s (zero.withStaging { s.staging with
        entries := s.staging.entries.set i (.clean { d with lastUse := s.now }), closeQueue := rest }))) ∧
    (s.seq.misses = [] → s.seq.fills = [] → claim = false → s.seq.powerReq = some .sleep →
      let asleep := ((u.issueBare .sleep).setPowerReq none).setSeqSt .asleep
      (s.power.st ≠ .drain → Reaches .grant s asleep) ∧
      (s.power.st = .drain → Reaches .grant s
        ((asleep.withPower { s.power with st := .sleep, drainExpiry := none,
                                          lastDrain := some { outcome := .entered, tick := s.now } }).raise .sleepEntered))) ∧
    (s.seq.misses = [] → s.seq.fills = [] → claim = false → s.seq.powerReq ≠ some .sleep → Reaches .grant s u)

/-- READ_COMPLETE for a read miss (R66, R71, R91): the read is resolved again against the state as it stands, from the
hazard on; without overlay and entry it takes the flash's bytes. The sequencer is IDLE again. Once a soft reset is
accepted the read has been answered: the bytes go nowhere, and the soft reset takes effect (R80). -/
def Obligations.MissReadCompletes : Prop :=
  (∀ (s : State) (tag : Nat) (bytes : List Byte), s.control.softReset = true → s.readOf tag = none → bytes.length = 64 →
     s.seq.st = .reading (.miss tag) → Reaches (.readComplete bytes) s (s.clearOut.setSeqSt .idle).softResetEffect) ∧
  ∀ (s : State) (tag : Nat) (r : Read) (bytes : List Byte), s.readOf tag = some r → bytes.length = 64 →
    s.seq.st = .reading (.miss tag) →
    let u := s.clearOut.setSeqSt .idle
    let c := Instr.readComplete bytes
    (s.hazard r.req.line = true → Reaches c s (u.setStage tag .waitingHazard)) ∧
    (s.hazard r.req.line = false →
      (∀ bs, s.overlayBytes r.req = some bs → Reaches c s (u.setStage tag (.resolved (.ok bs .overlay)))) ∧
      (s.overlayBytes r.req = none → s.staging.find (sectorOf r.req.line) = none →
        Reaches c s (u.setStage tag (.resolved (.ok ((bytes.drop r.req.offset).take r.req.length) .flash)))) ∧
      (∀ i d f, s.overlayBytes r.req = none → s.staging.find (sectorOf r.req.line) = some i →
        s.staging.entry i = .filling d f → Reaches c s (u.setStage tag .waitingFill)) ∧
      (∀ i d, s.overlayBytes r.req = none → s.staging.find (sectorOf r.req.line) = some i →
        (s.staging.entry i).data? = some d → (s.staging.entry i).isFilling = false →
        Reaches c s ((u.withStaging (s.staging.touch s.now i)).setStage tag
          (.resolved (.ok (imgSpan d.work (sectorOffset r.req.line r.req.offset) r.req.length) (.entry i))))))

/-- READ_COMPLETE for a fill page (R23, R25, R26, R35): pages 0 to 14 are stored in the base image. Page 15 completes
the fill: working bytes not written take the base bytes, the entry is OPEN, then closed with the cause it carried or by
the pending expiries; the reads that waited are served, each setting the last-use tick. With both expiries pending and no
dirty page the entry becomes CLEAN (the model's choice, log entry 21). A page whose sector has no entry is dropped; so is
every page once a soft reset is accepted, which then takes effect (R26, R80). -/
def Obligations.FillReadCompletes : Prop :=
  ∀ (s : State) (n page : Nat) (bytes : List Byte), bytes.length = 256 → s.seq.st = .reading (.fillPage n page) →
    let u := s.clearOut.setSeqSt .idle
    let c := Instr.readComplete bytes
    (s.control.softReset = true → Reaches c s u.softResetEffect) ∧
    (s.staging.find n = none → Reaches c s u) ∧
    (∀ i d f, s.control.softReset = false → s.staging.find n = some i → s.staging.entry i = .filling d f →
      let d1 : Sector := { d with base := imgWriteBytes d.base (page * 256) bytes }
      (page ≠ 15 → Reaches c s (u.withStaging (s.staging.setEntry i (.filling d1 f)))) ∧
      (page = 15 →
        let d2 : Sector := { d1 with work := filledWork d1 f.written }
        (∀ k, Memory.wf d1.base = true → (∀ j ∈ f.written, j < 4096) →
          imgRead d2.work k = if k ∈ f.written then imgRead d.work k else imgRead d1.base k) ∧
        let g := s.staging.setEntry i (.opened d2 { f.timers with age := if hasDirty d2 then f.timers.age else none })
        let g' := match f.closeOnFill with
          | some cause => g.close cause i
          | none =>
            if f.agePending = true ∧ hasDirty d2 = true then g.close .age i
            else if f.idlePending = true then g.close .idle i
            else g
        let waited := s.port.reads.filter (fun r => decide (r.stage = .waitingFill) && sectorOf r.req.line == d.number)
        Reaches c s (waited.foldl
          (fun x r => x.setStage r.tag (.resolved (.ok (imgSpan d2.work (sectorOffset r.req.line r.req.offset) r.req.length) (.entry i))))
          (u.withStaging (if waited = [] then g' else g'.touch s.now i)))))

/-- READ_COMPLETE for a verify read (R46, R48, R49, R51, R52): equal bytes end the page, and the commit goes on to the
next listed page or completes CLEAN with the base image taking the working image; a difference orders the second
attempt, counted as a retry, and on the second attempt leaves the entry FAULTED with MEDIA_FAULT. Once a soft reset is
accepted the comparison changes nothing, and the soft reset takes effect (R57, R80). -/
def Obligations.VerifyReadCompletes : Prop :=
  (∀ (s : State) (page : Nat) (bytes : List Byte), bytes.length = 256 → s.seq.st = .reading (.verify page) →
     s.control.softReset = true → Reaches (.readComplete bytes) s (s.clearOut.setSeqSt .idle).softResetEffect) ∧
  ∀ (s : State) (page i : Nat) (bytes : List Byte) (d : Sector) (cause : CloseCause) (p : Progress), bytes.length = 256 →
    s.seq.st = .reading (.verify page) → s.control.softReset = false → s.staging.committingIndex = some i →
    s.staging.entry i = .committing d cause p →
    let u := s.clearOut.setSeqSt .idle
    let c := Instr.readComplete bytes
    let set (e : Entry) := u.withStaging (s.staging.setEntry i e)
    let same := bytes = imgSpan d.work (page * 256) 256
    (same → p.pages.filter (· ≠ page) = [] → Reaches c s (set (.clean { d with base := d.work, lastUse := s.now }))) ∧
    (∀ n rest, same → p.pages.filter (· ≠ page) = n :: rest →
      Reaches c s (set (.committing d cause { p with pages := n :: rest, step := .program n, attempts := 1 }))) ∧
    (¬ same → p.attempts = 1 →
      Reaches c s (set (.committing d cause { p with step := .program page, attempts := 2 })).countRetry) ∧
    (¬ same → p.attempts ≠ 1 → Reaches c s ((set (.faulted d { kind := .verifyMismatch, page := some page, tick := s.now })).raise
      .mediaFault)) ∧
    (∀ t : State,
      (t.staging.retry < 65535 → t.countRetry.staging.retry = t.staging.retry + 1) ∧
      (65535 ≤ t.staging.retry → t.countRetry = t) ∧
      (t.countRetry.events.flags =
        if t.staging.retry = 32767 then t.events.flags ||| eventMask .retryHalf else t.events.flags))

/-- OPERATION_COMPLETE (R60, R67, R44, R45, R47, R51, R52): a status read that shows ready and not suspended ends the
ERASE or PROGRAM in BUSY, SUSPENDING and RESUMING. A success leads to the first program, to the verify read, to the next
page or to completion; a fail indication orders the second attempt, and on the second leaves the entry FAULTED. One that
shows busy in BUSY ends nothing. Once a soft reset is accepted the completion changes no entry, orders no second attempt
and counts no retry, with the fail indication or without, and the soft reset takes effect (R57, R80). A status byte is decoded by the profile's bit positions and ready value; a suspended bit
with busy counts for nothing (R59). -/
def Obligations.OperationsComplete : Prop :=
  (∀ (s : State) (st : Byte),
     let p := s.profile.getD []
     let bit (i : Nat) : Bool := st.getLsbD i
     let ready : Prop := (if bit ((byteAt p 12).toNat % 16) = true then 1 else 0) = (byteAt p 12).toNat / 16
     (byteAt p 12).toNat / 16 ≤ 1 →
     (¬ ready → s.shown st = .busy) ∧
     (ready → bit (byteAt p 13).toNat = true → s.shown st = .suspended) ∧
     (ready → bit (byteAt p 13).toNat = false → s.shown st = .ready) ∧
     s.failed st = bit (byteAt p 14).toNat) ∧
  ∀ (s : State) (st : Byte) (op : FlashOp),
    (s.seq.st = .busy op ∨ (∃ t, s.seq.st = .suspending op t) ∨ s.seq.st = .resuming op) →
    let c := Instr.operationComplete st
    let u := s.clearOut.issueStatus
    let v := u.withSeq { s.seq with st := .idle, deferred := none }
    (s.control.softReset = true → s.shown st = .ready → Reaches c s v.softResetEffect) ∧
    (∀ i d cause p, s.control.softReset = false → s.shown st = .ready → s.staging.committingIndex = some i → s.staging.entry i = .committing d cause p →
      let set (e : Entry) := v.withStaging (s.staging.setEntry i e)
      let done := Entry.clean { d with base := d.work, lastUse := s.now }
      let next (pages : List Nat) : Entry := match pages with
        | [] => done
        | n :: rest => .committing d cause { p with pages := n :: rest, step := .program n, attempts := 1 }
      (s.failed st = false → op.step = .erase → Reaches c s (set (next p.pages))) ∧
      (∀ n, s.failed st = false → op.step = .program n → s.seq.policy.verifyEnable = true →
        Reaches c s (set (.committing d cause { p with step := .verify n }))) ∧
      (∀ n, s.failed st = false → op.step = .program n → s.seq.policy.verifyEnable = false →
        Reaches c s (set (next (p.pages.filter (· ≠ n))))) ∧
      (s.failed st = true → p.attempts = 1 → op.step = .erase →
        Reaches c s (set (.committing d cause { p with step := .erase, attempts := 2 })).countRetry) ∧
      (∀ n, s.failed st = true → p.attempts = 1 → op.step = .program n →
        Reaches c s (set (.committing d cause { p with step := .program n, attempts := 2 })).countRetry) ∧
      (s.failed st = true → p.attempts ≠ 1 → op.step = .erase →
        Reaches c s ((set (.faulted d { kind := .eraseFailed, page := none, tick := s.now })).raise .mediaFault)) ∧
      (∀ n, s.failed st = true → p.attempts ≠ 1 → op.step = .program n →
        Reaches c s ((set (.faulted d { kind := .programFailed, page := some n, tick := s.now })).raise .mediaFault))) ∧
    (s.seq.st = .busy op → s.shown st ≠ .ready → Reaches c s u)

/-- The suspension and the resume (R68, R70 to R73). SUSPENSION_COMPLETE: the waiting misses become the service list and
the first one's READ is issued, or RESUME when none waits. A READ of the service list that completes serves the next, or
RESUME; one whose read a soft reset has answered is dropped, and RESUME follows (R80). RESUME_BUSY: the state is BUSY
again, and a waiting miss is decided at once. DEFERRED_SUSPENSION: at its tick it is removed, and a waiting miss in BUSY is
decided anew. The decision (R68): SUSPEND where the policy, the power state and the budget allow and the spacing has
passed; where they allow and it has not, one deferred suspension; else nothing. Away from its tick DEFERRED_SUSPENSION does
nothing (the model's choice, log entry 2). -/
def Obligations.SuspensionServesTheMisses : Prop :=
  ∀ (s : State) (st : Byte) (op : FlashOp),
    let u := s.clearOut.issueStatus
    let resumed (x : State) := (x.issueBare .resume).setSeqSt (.resuming { op with lastResume := some s.now })
    let budget := match op.step with | .erase => s.seq.policy.eraseBudget | .program _ => s.seq.policy.programBudget
    let may := s.seq.policy.suspendEnable = true ∧ s.power.st ≠ .emergency ∧ op.suspCount < budget ∧ s.control.softReset = false
    let passed := ∀ t, op.lastResume = some t → s.seq.policy.resumeSpacing ≤ (s.now - t).toNat
    let suspend (x : State) := (x.issueBare .suspend).withSeq
      { x.seq with st := .suspending { op with suspCount := op.suspCount + 1 } (s.now + s.time.timing.suspendLimit.setWidth 32),
                   deferred := none }
    let defer (x : State) (t : Tick) := x.withSeq { x.seq with deferred := some (tickAfter t s.seq.policy.resumeSpacing) }
    let busy := u.setSeqSt (.busy op)
    let removed := s.clearOut.withSeq { s.seq with deferred := none }
    (∀ t, s.seq.st = .suspending op t → s.shown st = .suspended →
      (s.seq.misses = [] → Reaches (.suspensionComplete st) s (resumed u)) ∧
      (∀ tag rest r, s.seq.misses = tag :: rest → s.readOf tag = some r →
        Reaches (.suspensionComplete st) s ((u.issueRead r.req.line.toNat 64).withSeq
          { s.seq with st := .suspended op (tag :: rest), misses := [] }))) ∧
    (∀ t, s.seq.st = .suspending op t → s.shown st = .busy → Reaches (.suspensionComplete st) s u) ∧
    (∀ tag r (bytes : List Byte), s.readOf tag = some r → bytes.length = 64 →
      let x := s.clearOut.missComplete tag bytes
      (s.seq.st = .suspended op [tag] → Reaches (.readComplete bytes) s (resumed x)) ∧
      (∀ next rest q, s.seq.st = .suspended op (tag :: next :: rest) → x.readOf next = some q →
        Reaches (.readComplete bytes) s ((x.issueRead q.req.line.toNat 64).setSeqSt (.suspended op (next :: rest))))) ∧
    (∀ tag (bytes : List Byte), s.readOf tag = none → bytes.length = 64 → s.seq.st = .suspended op [tag] →
      Reaches (.readComplete bytes) s (resumed s.clearOut)) ∧
    (s.seq.st = .resuming op → s.shown st = .busy →
      (s.seq.misses = [] → Reaches (.resumeBusy st) s busy) ∧
      (s.seq.misses ≠ [] → ¬ may → Reaches (.resumeBusy st) s busy) ∧
      (s.seq.misses ≠ [] → may → passed → Reaches (.resumeBusy st) s (suspend busy)) ∧
      (∀ t, s.seq.misses ≠ [] → may → op.lastResume = some t → ¬ s.seq.policy.resumeSpacing ≤ (s.now - t).toNat →
        Reaches (.resumeBusy st) s (if s.seq.deferred = none then defer busy t else busy))) ∧
    (s.seq.st = .resuming op → s.shown st = .suspended → Reaches (.resumeBusy st) s u) ∧
    (s.seq.deferred = some s.now →
      (s.seq.misses = [] ∨ (∀ o, s.seq.st ≠ .busy o) → Reaches .deferredSuspension s removed) ∧
      (s.seq.st = .busy op → s.seq.misses ≠ [] →
        (¬ may → Reaches .deferredSuspension s removed) ∧
        (may → passed → Reaches .deferredSuspension s (suspend removed)) ∧
        (∀ t, may → op.lastResume = some t → ¬ s.seq.policy.resumeSpacing ≤ (s.now - t).toNat →
          Reaches .deferredSuspension s (defer removed t)))) ∧
    (s.seq.deferred ≠ some s.now → Reaches .deferredSuspension s s.clearOut)

/-- The limits of an operation (R50, R69, R70, R74, R75). At the suspend limit one further status read decides: ready
completes the operation, anything else is a flash timeout. Busy ticks that reach the time limit are one too. A timeout
makes the sequencer STALLED with FLASH_STALL, the commit FAULTED with FLASH_TIMEOUT, and every queued miss refused. Before its
limit an expiry does nothing (the model's choice, log entry 2). -/
def Obligations.TimeoutsStallTheSequencer : Prop :=
  ∀ (s : State) (st : Byte) (op : FlashOp),
    let timedOut (x : State) : State :=
      let y := x.withSeq { s.seq with st := .stalled, deferred := none, misses := [] }
      let z : State := match s.control.softReset, s.staging.committingIndex.map (fun i => (i, s.staging.entry i)) with
        | false, some (i, .committing d _ _) => (y.withStaging (s.staging.setEntry i (.faulted d
            { kind := .flashTimeout, page := (match op.step with | .erase => none | .program n => some n), tick := s.now }))).raise
              .mediaFault
        | _, _ => y
      (z.raise .flashStall).setReads (s.port.reads.map fun r =>
        if r.tag ∈ s.seq.misses then { r with stage := .resolved (.err .flashUnavailable) } else r)
    (s.seq.st = .suspending op s.now → s.shown st = .ready →
      exec (.suspendLimitExpiry st) s = exec (.operationComplete st) s) ∧
    (s.seq.st = .suspending op s.now → s.shown st ≠ .ready →
      Reaches (.suspendLimitExpiry st) s (timedOut s.clearOut.issueStatus)) ∧
    ((∀ o, s.seq.st ≠ .suspending o s.now) → Reaches (.suspendLimitExpiry st) s s.clearOut) ∧
    ((s.seq.st = .busy op ∨ s.seq.st = .resuming op) → op.timeLimit ≤ op.busyTicks →
      Reaches .timeLimitExpiry s (timedOut s.clearOut)) ∧
    (((s.seq.st = .busy op ∨ s.seq.st = .resuming op) → op.busyTicks < op.timeLimit →
      Reaches .timeLimitExpiry s s.clearOut))

/-! ### Ticks and timers -/

/-- TICK (R155, R156, R69, R60, R76, R183, R184). Where the increment brings no timer its tick: the tick counter grows
by one modulo 2^32, the sub-tick count is 0, a BUSY or RESUMING operation uses one more busy tick, STALLED and STARTUP_WAIT read the status. And in every running part the expiries the increment brings are taken in its
own event, each as its own command takes it, in an order the rules leave open (the model's choice, log entry 3). A part
that does not run counts nothing (the model's choice, log entry 12). At the end of start-up with PWRWARN high the assertion
is taken in the event, before a waiting request is accepted (the model's reading, log entry 14). -/
def Obligations.TicksCount : Prop :=
  ∀ (s : State) (st : Byte),
    (s.running = false → s.atRest → exec (.tick st) s = .next s.clearOut) ∧
    (s.running = true →
      let polled := (((s.clearOut.withTime { tick := s.time.tick + 1, subTick := 0, timing := s.time.timing }).setSeqSt
        s.seq.st.grow).tickPoll st)
      let sequencer := ((((polled.wakeEndDue st).suspendLimit st).timeLimit).deferredDue).startupLimitDue
      let entries := (List.range 16).foldl (fun x i => (x.idleExpired i).ageExpired i) sequencer.holdExpired
      exec (.tick st) s = .next
        (settle (((entries.staleExpired .a).staleExpired .b).drainExpired).overlayExpired)) ∧
    (let u := s.clearOut
     exec (.wakeEnd st) s = .next (settle (u.wakeEndDue st)) ∧
     exec (.suspendLimitExpiry st) s = .next (settle (u.suspendLimit st)) ∧
     exec .timeLimitExpiry s = .next (settle u.timeLimit) ∧ exec .deferredSuspension s = .next (settle u.deferredDue) ∧
     exec .startupWaitLimit s = .next (settle u.startupLimitDue) ∧ exec .holdTimerExpiry s = .next (settle u.holdExpired) ∧
     (∀ i, exec (.idleTimerExpiry i) s = .next (settle (u.idleExpired i)) ∧
       exec (.ageTimerExpiry i) s = .next (settle (u.ageExpired i))) ∧
     (∀ q, exec (.staleTimerExpiry q) s = .next (settle (u.staleExpired q))) ∧
     exec .drainTimerExpiry s = .next (settle u.drainExpired) ∧
     exec .replyLifetimeExpiry s = .next (settle u.overlayExpired)) ∧
    (s.NoneDue →
      let more (op : FlashOp) : FlashOp := { op with busyTicks := op.busyTicks + 1 }
      let x := s.clearOut.withTime { tick := s.time.tick + 1, subTick := 0, timing := s.time.timing }
      let y := x.issueStatus
      let ended := ((y.setSeqSt .idle).setPowerSt .run).setLanes true
      (∀ op, s.seq.st = .busy op → Reaches (.tick st) s (x.setSeqSt (.busy (more op)))) ∧
      (∀ op, s.seq.st = .resuming op → Reaches (.tick st) s (x.setSeqSt (.resuming (more op)))) ∧
      (s.seq.st = .stalled →
        (s.shown st = .ready → Reaches (.tick st) s (y.setSeqSt .idle)) ∧
        (s.shown st = .busy → Reaches (.tick st) s y) ∧
        (s.shown st = .suspended → Reaches (.tick st) s (y.issueBare .resume))) ∧
      (∀ t r, s.seq.st = .startupWait t r →
        (s.shown st = .ready → s.power.pwrwarn = false → Reaches (.tick st) s ended) ∧
        (s.shown st = .ready → s.power.pwrwarn = true →
          Reaches (.tick st) s (ended.raise .powerWarning).enterEmergency) ∧
        (s.shown st = .busy → Reaches (.tick st) s y) ∧
        (s.shown st = .suspended → r = true → Reaches (.tick st) s y) ∧
        (s.shown st = .suspended → r = false → Reaches (.tick st) s
          (((y.issueBare .resume).raise .startupResumed).setSeqSt (.startupWait (tickAfter (s.now + 1) 4000) true)))) ∧
      ((∀ op, s.seq.st ≠ .busy op) → (∀ op, s.seq.st ≠ .resuming op) → s.seq.st ≠ .stalled →
        (∀ t r, s.seq.st ≠ .startupWait t r) → Reaches (.tick st) s x))

/-- The idle and age timers (R32, R34, R35): due at their tick, an OPEN entry with dirty pages is closed with cause
IDLE or AGE, one without becomes CLEAN at an idle expiry; a FILLING entry keeps the expiry pending. A timer that is not
due does nothing (the model's choice, log entry 2). -/
def Obligations.EntryTimersCloseTheEntry : Prop :=
  ∀ (s : State) (i : Nat), i < s.staging.entries.length →
    let set (e : Entry) := s.clearOut.withStaging (s.staging.setEntry i e)
    let closed (d : Sector) (c : CloseCause) := s.clearOut.withStaging { s.staging with
      entries := s.staging.entries.set i (.closed d c), closeQueue := s.staging.closeQueue ++ [i] }
    (∀ d t, s.staging.entry i = .opened d t →
      (t.idle = some s.now → hasDirty d = true → Reaches (.idleTimerExpiry i) s (closed d .idle)) ∧
      (t.idle = some s.now → hasDirty d = false → Reaches (.idleTimerExpiry i) s (set (.clean d))) ∧
      (t.age = some s.now → hasDirty d = true → Reaches (.ageTimerExpiry i) s (closed d .age)) ∧
      (t.idle ≠ some s.now → Reaches (.idleTimerExpiry i) s s.clearOut) ∧
      (t.age ≠ some s.now → Reaches (.ageTimerExpiry i) s s.clearOut)) ∧
    (∀ d f, s.staging.entry i = .filling d f →
      (f.timers.idle = some s.now → Reaches (.idleTimerExpiry i) s
        (set (.filling d { f with timers := { f.timers with idle := none }, idlePending := true }))) ∧
      (f.timers.age = some s.now → Reaches (.ageTimerExpiry i) s
        (set (.filling d { f with timers := { f.timers with age := none }, agePending := true })))) ∧
    ((∀ d t, s.staging.entry i ≠ .opened d t) → (∀ d f, s.staging.entry i ≠ .filling d f) →
      Reaches (.idleTimerExpiry i) s s.clearOut ∧ Reaches (.ageTimerExpiry i) s s.clearOut)

/-- The hold, stale, drain and reply timers (R99, R131, R144, R171): a held write is refused HOLD_EXPIRED with its
event; a stale queue raises CAPTURE_STALE and its timer restarts, or stops at limit 0; a drain is abandoned to RUN with
FAULTED_DATA while a FAULTED entry exists and TIMEOUT otherwise; the overlay is removed and the reads that hold its
bytes are resolved afresh, several the oldest first. A timer that is not due does nothing (the model's choices, log
entries 22 and 2). -/
def Obligations.TimersTakeEffectAtTheirTick : Prop :=
  ∀ s : State,
    let u := s.clearOut
    (∀ w c, s.port.write = some w → w.stage = .held c → w.hold = some s.now →
      Reaches .holdTimerExpiry s ((u.raise .holdExpired).refuseWrite w .holdExpired)) ∧
    ((∀ w, s.port.write = some w → w.hold ≠ some s.now ∨ ∀ c, w.stage ≠ .held c) → Reaches .holdTimerExpiry s u) ∧
    (∀ q : QueueName,
      let limit : Half := match q with | .a => s.time.timing.staleA | .b => s.time.timing.staleB
      ((s.capture.queue q).staleExpiry = some s.now → Reaches (.staleTimerExpiry q) s
        ((u.withCapture (s.capture.setQueue q { s.capture.queue q with
          staleExpiry := if limit = 0 then none else some (s.now + limit.setWidth 32) })).raise (.captureStale q))) ∧
      ((s.capture.queue q).staleExpiry ≠ some s.now → Reaches (.staleTimerExpiry q) s u)) ∧
    (s.power.st = .drain → s.power.drainExpiry = some s.now →
      let reason := if s.staging.entries.any Entry.isFaulted then DrainReason.faultedData else .timeout
      Reaches .drainTimerExpiry s
        (((u.setPowerReq (if s.seq.powerReq = some .sleep then none else s.seq.powerReq)).withPower
          { s.power with st := .run, drainExpiry := none, lastDrain := some { outcome := .failed reason, tick := s.now } }).raise
            .sleepFailed)) ∧
    ((s.power.st ≠ .drain ∨ s.power.drainExpiry ≠ some s.now) → Reaches .drainTimerExpiry s u) ∧
    (∀ o, s.control.overlay = some o → o.expiry = s.now →
      let ended := u.withControl { s.control with overlay := none }
      (∃ x, ResolvesAfresh ended (s.port.reads.filter Read.fromOverlay) x) ∧
      ∀ x, ResolvesAfresh ended (s.port.reads.filter Read.fromOverlay) x → Reaches .replyLifetimeExpiry s x) ∧
    ((∀ o, s.control.overlay = some o → o.expiry ≠ s.now) → Reaches .replyLifetimeExpiry s u)

/-! ### Power -/

/-- PWRWARN (R148 to R151). High: nothing in STARTING; else POWER_WARNING, and RUN and WAKING enter EMERGENCY, DRAIN is
abandoned with reason POWER and enters it, SLEEP becomes SAFE. EMERGENCY closes every entry and refuses a held write.
Low: EMERGENCY returns to RUN, SAFE to RUN, through WAKING with the flash asleep. A level that does not change is no
event, and a held write is refused before it can take a place the closes make (the model's choice and reading, log
entries 7 and 15). -/
def Obligations.PowerWarningMovesThePowerState : Prop :=
  ∀ s : State,
    let u := s.clearOut
    let high := u.withPower { s.power with pwrwarn := true }
    let low := u.withPower { s.power with pwrwarn := false }
    let warned := high.raise .powerWarning
    let emergency (x : State) : State :=
      let y := (x.setPowerSt .emergency).withStaging ((List.range 16).foldl (Staging.close .emergency) s.staging)
      match s.port.write with
      | some w => match w.stage with
        | .held _ => y.refuseWrite w .deniedPower
        | _ => y
      | none => y
    (s.power.pwrwarn = true → Reaches .pwrwarnAssertion s u) ∧
    (s.power.pwrwarn = false →
      (s.power.st = .starting → Reaches .pwrwarnAssertion s high) ∧
      ((s.power.st = .unconfigured ∨ s.power.st = .emergency ∨ s.power.st = .safe) → Reaches .pwrwarnAssertion s warned) ∧
      ((s.power.st = .run ∨ s.power.st = .waking) → Reaches .pwrwarnAssertion s (emergency warned)) ∧
      (s.power.st = .drain → Reaches .pwrwarnAssertion s (emergency (warned.abandonDrain .power))) ∧
      (s.power.st = .sleep → s.seq.st ≠ .asleep →
        Reaches .pwrwarnAssertion s ((warned.setPowerSt .safe).raise .safeReached)) ∧
      (s.power.st = .sleep → s.seq.st = .asleep →
        Reaches .pwrwarnAssertion s (((warned.setPowerSt .safe).raise .safeReached).refuseMisses .deniedPower))) ∧
    (s.power.pwrwarn = false → Reaches .pwrwarnDeassertion s u) ∧
    (s.power.pwrwarn = true →
      (s.power.st = .emergency → Reaches .pwrwarnDeassertion s (low.setPowerSt .run)) ∧
      (s.power.st = .safe → s.seq.st ≠ .asleep → Reaches .pwrwarnDeassertion s (low.setPowerSt .run)) ∧
      (s.power.st = .safe → s.seq.st = .asleep → s.wakeDelay ≠ 0 → Reaches .pwrwarnDeassertion s
        ((((low.setPowerSt .waking).issueBare .wake).setPowerReq none).setSeqSt (.waking (tickAfter s.now s.wakeDelay)))) ∧
      (s.power.st = .safe → s.seq.st = .asleep → s.wakeDelay = 0 → Reaches .pwrwarnDeassertion s
        ((((low.setPowerSt .run).issueBare .wake).setPowerReq none).setSeqSt .idle)) ∧
      (s.power.st ≠ .emergency → s.power.st ≠ .safe → Reaches .pwrwarnDeassertion s low))

/-- DRAIN_COMPLETION and SAFE_CONDITION_MET (R143, R149, R150). In DRAIN, with no unwritten data, the sequencer IDLE, no
miss queued and no ordinary write in progress, the drain completes: in SLEEP with flash-deep-sleep off, else by the
request for the flash SLEEP. In EMERGENCY, with no entry FILLING, CLOSED, COMMITTING or dirty and no ERASE or PROGRAM in
flight, the state becomes SAFE. Where the condition fails nothing happens (the model's choice, log entry 2). -/
def Obligations.DrainAndSafeConditions : Prop :=
  ∀ s : State,
    let u := s.clearOut
    let idle := s.unwritten = false ∧ s.seq.st = .idle ∧ s.seq.misses = [] ∧
      (∀ w, s.port.write = some w → w.stage ≠ .taking ∧ ∀ c, w.stage ≠ .held c)
    let settled := (∀ e ∈ s.staging.entries, match e with
        | .filling _ _ => False
        | .closed _ _ => False
        | .committing _ _ _ => False
        | .opened d _ => hasDirty d = false
        | _ => True) ∧
      (∀ op, s.seq.st ≠ .busy op) ∧ (∀ op t, s.seq.st ≠ .suspending op t) ∧ (∀ op l, s.seq.st ≠ .suspended op l) ∧
      (∀ op, s.seq.st ≠ .resuming op)
    (s.power.st = .drain → s.seq.powerReq ≠ some .sleep → s.control.softReset = false → idle →
      (s.power.policy.deepSleep = true → Reaches .drainCompletion s (u.setPowerReq (some .sleep))) ∧
      (s.power.policy.deepSleep = false → Reaches .drainCompletion s
        ((u.withPower { s.power with st := .sleep, drainExpiry := none,
                                     lastDrain := some { outcome := .entered, tick := s.now } }).raise .sleepEntered))) ∧
    ((s.power.st ≠ .drain ∨ ¬ idle) → Reaches .drainCompletion s u) ∧
    (s.power.st = .emergency → settled →
      (s.seq.st ≠ .asleep → Reaches .safeConditionMet s ((u.setPowerSt .safe).raise .safeReached)) ∧
      (s.seq.st = .asleep →
        Reaches .safeConditionMet s (((u.setPowerSt .safe).raise .safeReached).refuseMisses .deniedPower))) ∧
    ((s.power.st ≠ .emergency ∨ ¬ settled) → Reaches .safeConditionMet s u)
end

