-- ==== Sys2Proof/Laws/State.lean ====
section
/-! SUPPORT. One lemma for each field of State under each plain update of it, true by definition. -/

namespace Sys2Proof.Machine.State

variable (s : State)

/-! withStaging -/
@[simp] theorem withStaging_port (g : Staging) : (s.withStaging g).port = s.port := rfl
@[simp] theorem withStaging_control (g : Staging) : (s.withStaging g).control = s.control := rfl
@[simp] theorem withStaging_rule (g : Staging) : (s.withStaging g).rule = s.rule := rfl
@[simp] theorem withStaging_capture (g : Staging) : (s.withStaging g).capture = s.capture := rfl
@[simp] theorem withStaging_staging (g : Staging) : (s.withStaging g).staging = g := rfl
@[simp] theorem withStaging_seq (g : Staging) : (s.withStaging g).seq = s.seq := rfl
@[simp] theorem withStaging_power (g : Staging) : (s.withStaging g).power = s.power := rfl
@[simp] theorem withStaging_time (g : Staging) : (s.withStaging g).time = s.time := rfl
@[simp] theorem withStaging_events (g : Staging) : (s.withStaging g).events = s.events := rfl
@[simp] theorem withStaging_fuses (g : Staging) : (s.withStaging g).fuses = s.fuses := rfl
@[simp] theorem withStaging_profile (g : Staging) : (s.withStaging g).profile = s.profile := rfl
@[simp] theorem withStaging_powered (g : Staging) : (s.withStaging g).powered = s.powered := rfl
@[simp] theorem withStaging_resetHeld (g : Staging) : (s.withStaging g).resetHeld = s.resetHeld := rfl
@[simp] theorem withStaging_answers (g : Staging) : (s.withStaging g).answers = s.answers := rfl
@[simp] theorem withStaging_link (g : Staging) : (s.withStaging g).link = s.link := rfl
@[simp] theorem withStaging_draws (g : Staging) : (s.withStaging g).draws = s.draws := rfl
@[simp] theorem withStaging_pending (g : Staging) : (s.withStaging g).pending = s.pending := rfl

/-! withSeq -/
@[simp] theorem withSeq_port (q : Sequencer) : (s.withSeq q).port = s.port := rfl
@[simp] theorem withSeq_control (q : Sequencer) : (s.withSeq q).control = s.control := rfl
@[simp] theorem withSeq_rule (q : Sequencer) : (s.withSeq q).rule = s.rule := rfl
@[simp] theorem withSeq_capture (q : Sequencer) : (s.withSeq q).capture = s.capture := rfl
@[simp] theorem withSeq_staging (q : Sequencer) : (s.withSeq q).staging = s.staging := rfl
@[simp] theorem withSeq_seq (q : Sequencer) : (s.withSeq q).seq = q := rfl
@[simp] theorem withSeq_power (q : Sequencer) : (s.withSeq q).power = s.power := rfl
@[simp] theorem withSeq_time (q : Sequencer) : (s.withSeq q).time = s.time := rfl
@[simp] theorem withSeq_events (q : Sequencer) : (s.withSeq q).events = s.events := rfl
@[simp] theorem withSeq_fuses (q : Sequencer) : (s.withSeq q).fuses = s.fuses := rfl
@[simp] theorem withSeq_profile (q : Sequencer) : (s.withSeq q).profile = s.profile := rfl
@[simp] theorem withSeq_powered (q : Sequencer) : (s.withSeq q).powered = s.powered := rfl
@[simp] theorem withSeq_resetHeld (q : Sequencer) : (s.withSeq q).resetHeld = s.resetHeld := rfl
@[simp] theorem withSeq_answers (q : Sequencer) : (s.withSeq q).answers = s.answers := rfl
@[simp] theorem withSeq_link (q : Sequencer) : (s.withSeq q).link = s.link := rfl
@[simp] theorem withSeq_draws (q : Sequencer) : (s.withSeq q).draws = s.draws := rfl
@[simp] theorem withSeq_pending (q : Sequencer) : (s.withSeq q).pending = s.pending := rfl

/-! withPort -/
@[simp] theorem withPort_port (p : Port) : (s.withPort p).port = p := rfl
@[simp] theorem withPort_control (p : Port) : (s.withPort p).control = s.control := rfl
@[simp] theorem withPort_rule (p : Port) : (s.withPort p).rule = s.rule := rfl
@[simp] theorem withPort_capture (p : Port) : (s.withPort p).capture = s.capture := rfl
@[simp] theorem withPort_staging (p : Port) : (s.withPort p).staging = s.staging := rfl
@[simp] theorem withPort_seq (p : Port) : (s.withPort p).seq = s.seq := rfl
@[simp] theorem withPort_power (p : Port) : (s.withPort p).power = s.power := rfl
@[simp] theorem withPort_time (p : Port) : (s.withPort p).time = s.time := rfl
@[simp] theorem withPort_events (p : Port) : (s.withPort p).events = s.events := rfl
@[simp] theorem withPort_fuses (p : Port) : (s.withPort p).fuses = s.fuses := rfl
@[simp] theorem withPort_profile (p : Port) : (s.withPort p).profile = s.profile := rfl
@[simp] theorem withPort_powered (p : Port) : (s.withPort p).powered = s.powered := rfl
@[simp] theorem withPort_resetHeld (p : Port) : (s.withPort p).resetHeld = s.resetHeld := rfl
@[simp] theorem withPort_answers (p : Port) : (s.withPort p).answers = s.answers := rfl
@[simp] theorem withPort_link (p : Port) : (s.withPort p).link = s.link := rfl
@[simp] theorem withPort_draws (p : Port) : (s.withPort p).draws = s.draws := rfl
@[simp] theorem withPort_pending (p : Port) : (s.withPort p).pending = s.pending := rfl

/-! withPower -/
@[simp] theorem withPower_port (p : Power) : (s.withPower p).port = s.port := rfl
@[simp] theorem withPower_control (p : Power) : (s.withPower p).control = s.control := rfl
@[simp] theorem withPower_rule (p : Power) : (s.withPower p).rule = s.rule := rfl
@[simp] theorem withPower_capture (p : Power) : (s.withPower p).capture = s.capture := rfl
@[simp] theorem withPower_staging (p : Power) : (s.withPower p).staging = s.staging := rfl
@[simp] theorem withPower_seq (p : Power) : (s.withPower p).seq = s.seq := rfl
@[simp] theorem withPower_power (p : Power) : (s.withPower p).power = p := rfl
@[simp] theorem withPower_time (p : Power) : (s.withPower p).time = s.time := rfl
@[simp] theorem withPower_events (p : Power) : (s.withPower p).events = s.events := rfl
@[simp] theorem withPower_fuses (p : Power) : (s.withPower p).fuses = s.fuses := rfl
@[simp] theorem withPower_profile (p : Power) : (s.withPower p).profile = s.profile := rfl
@[simp] theorem withPower_powered (p : Power) : (s.withPower p).powered = s.powered := rfl
@[simp] theorem withPower_resetHeld (p : Power) : (s.withPower p).resetHeld = s.resetHeld := rfl
@[simp] theorem withPower_answers (p : Power) : (s.withPower p).answers = s.answers := rfl
@[simp] theorem withPower_link (p : Power) : (s.withPower p).link = s.link := rfl
@[simp] theorem withPower_draws (p : Power) : (s.withPower p).draws = s.draws := rfl
@[simp] theorem withPower_pending (p : Power) : (s.withPower p).pending = s.pending := rfl

/-! withRule -/
@[simp] theorem withRule_port (r : RuleUnit) : (s.withRule r).port = s.port := rfl
@[simp] theorem withRule_control (r : RuleUnit) : (s.withRule r).control = s.control := rfl
@[simp] theorem withRule_rule (r : RuleUnit) : (s.withRule r).rule = r := rfl
@[simp] theorem withRule_capture (r : RuleUnit) : (s.withRule r).capture = s.capture := rfl
@[simp] theorem withRule_staging (r : RuleUnit) : (s.withRule r).staging = s.staging := rfl
@[simp] theorem withRule_seq (r : RuleUnit) : (s.withRule r).seq = s.seq := rfl
@[simp] theorem withRule_power (r : RuleUnit) : (s.withRule r).power = s.power := rfl
@[simp] theorem withRule_time (r : RuleUnit) : (s.withRule r).time = s.time := rfl
@[simp] theorem withRule_events (r : RuleUnit) : (s.withRule r).events = s.events := rfl
@[simp] theorem withRule_fuses (r : RuleUnit) : (s.withRule r).fuses = s.fuses := rfl
@[simp] theorem withRule_profile (r : RuleUnit) : (s.withRule r).profile = s.profile := rfl
@[simp] theorem withRule_powered (r : RuleUnit) : (s.withRule r).powered = s.powered := rfl
@[simp] theorem withRule_resetHeld (r : RuleUnit) : (s.withRule r).resetHeld = s.resetHeld := rfl
@[simp] theorem withRule_answers (r : RuleUnit) : (s.withRule r).answers = s.answers := rfl
@[simp] theorem withRule_link (r : RuleUnit) : (s.withRule r).link = s.link := rfl
@[simp] theorem withRule_draws (r : RuleUnit) : (s.withRule r).draws = s.draws := rfl
@[simp] theorem withRule_pending (r : RuleUnit) : (s.withRule r).pending = s.pending := rfl

/-! withCapture -/
@[simp] theorem withCapture_port (c : CaptureUnit) : (s.withCapture c).port = s.port := rfl
@[simp] theorem withCapture_control (c : CaptureUnit) : (s.withCapture c).control = s.control := rfl
@[simp] theorem withCapture_rule (c : CaptureUnit) : (s.withCapture c).rule = s.rule := rfl
@[simp] theorem withCapture_capture (c : CaptureUnit) : (s.withCapture c).capture = c := rfl
@[simp] theorem withCapture_staging (c : CaptureUnit) : (s.withCapture c).staging = s.staging := rfl
@[simp] theorem withCapture_seq (c : CaptureUnit) : (s.withCapture c).seq = s.seq := rfl
@[simp] theorem withCapture_power (c : CaptureUnit) : (s.withCapture c).power = s.power := rfl
@[simp] theorem withCapture_time (c : CaptureUnit) : (s.withCapture c).time = s.time := rfl
@[simp] theorem withCapture_events (c : CaptureUnit) : (s.withCapture c).events = s.events := rfl
@[simp] theorem withCapture_fuses (c : CaptureUnit) : (s.withCapture c).fuses = s.fuses := rfl
@[simp] theorem withCapture_profile (c : CaptureUnit) : (s.withCapture c).profile = s.profile := rfl
@[simp] theorem withCapture_powered (c : CaptureUnit) : (s.withCapture c).powered = s.powered := rfl
@[simp] theorem withCapture_resetHeld (c : CaptureUnit) : (s.withCapture c).resetHeld = s.resetHeld := rfl
@[simp] theorem withCapture_answers (c : CaptureUnit) : (s.withCapture c).answers = s.answers := rfl
@[simp] theorem withCapture_link (c : CaptureUnit) : (s.withCapture c).link = s.link := rfl
@[simp] theorem withCapture_draws (c : CaptureUnit) : (s.withCapture c).draws = s.draws := rfl
@[simp] theorem withCapture_pending (c : CaptureUnit) : (s.withCapture c).pending = s.pending := rfl

/-! withControl -/
@[simp] theorem withControl_port (c : Control) : (s.withControl c).port = s.port := rfl
@[simp] theorem withControl_control (c : Control) : (s.withControl c).control = c := rfl
@[simp] theorem withControl_rule (c : Control) : (s.withControl c).rule = s.rule := rfl
@[simp] theorem withControl_capture (c : Control) : (s.withControl c).capture = s.capture := rfl
@[simp] theorem withControl_staging (c : Control) : (s.withControl c).staging = s.staging := rfl
@[simp] theorem withControl_seq (c : Control) : (s.withControl c).seq = s.seq := rfl
@[simp] theorem withControl_power (c : Control) : (s.withControl c).power = s.power := rfl
@[simp] theorem withControl_time (c : Control) : (s.withControl c).time = s.time := rfl
@[simp] theorem withControl_events (c : Control) : (s.withControl c).events = s.events := rfl
@[simp] theorem withControl_fuses (c : Control) : (s.withControl c).fuses = s.fuses := rfl
@[simp] theorem withControl_profile (c : Control) : (s.withControl c).profile = s.profile := rfl
@[simp] theorem withControl_powered (c : Control) : (s.withControl c).powered = s.powered := rfl
@[simp] theorem withControl_resetHeld (c : Control) : (s.withControl c).resetHeld = s.resetHeld := rfl
@[simp] theorem withControl_answers (c : Control) : (s.withControl c).answers = s.answers := rfl
@[simp] theorem withControl_link (c : Control) : (s.withControl c).link = s.link := rfl
@[simp] theorem withControl_draws (c : Control) : (s.withControl c).draws = s.draws := rfl
@[simp] theorem withControl_pending (c : Control) : (s.withControl c).pending = s.pending := rfl

/-! withEvents -/
@[simp] theorem withEvents_port (e : Events) : (s.withEvents e).port = s.port := rfl
@[simp] theorem withEvents_control (e : Events) : (s.withEvents e).control = s.control := rfl
@[simp] theorem withEvents_rule (e : Events) : (s.withEvents e).rule = s.rule := rfl
@[simp] theorem withEvents_capture (e : Events) : (s.withEvents e).capture = s.capture := rfl
@[simp] theorem withEvents_staging (e : Events) : (s.withEvents e).staging = s.staging := rfl
@[simp] theorem withEvents_seq (e : Events) : (s.withEvents e).seq = s.seq := rfl
@[simp] theorem withEvents_power (e : Events) : (s.withEvents e).power = s.power := rfl
@[simp] theorem withEvents_time (e : Events) : (s.withEvents e).time = s.time := rfl
@[simp] theorem withEvents_events (e : Events) : (s.withEvents e).events = e := rfl
@[simp] theorem withEvents_fuses (e : Events) : (s.withEvents e).fuses = s.fuses := rfl
@[simp] theorem withEvents_profile (e : Events) : (s.withEvents e).profile = s.profile := rfl
@[simp] theorem withEvents_powered (e : Events) : (s.withEvents e).powered = s.powered := rfl
@[simp] theorem withEvents_resetHeld (e : Events) : (s.withEvents e).resetHeld = s.resetHeld := rfl
@[simp] theorem withEvents_answers (e : Events) : (s.withEvents e).answers = s.answers := rfl
@[simp] theorem withEvents_link (e : Events) : (s.withEvents e).link = s.link := rfl
@[simp] theorem withEvents_draws (e : Events) : (s.withEvents e).draws = s.draws := rfl
@[simp] theorem withEvents_pending (e : Events) : (s.withEvents e).pending = s.pending := rfl

/-! withTime -/
@[simp] theorem withTime_port (t : Timebase) : (s.withTime t).port = s.port := rfl
@[simp] theorem withTime_control (t : Timebase) : (s.withTime t).control = s.control := rfl
@[simp] theorem withTime_rule (t : Timebase) : (s.withTime t).rule = s.rule := rfl
@[simp] theorem withTime_capture (t : Timebase) : (s.withTime t).capture = s.capture := rfl
@[simp] theorem withTime_staging (t : Timebase) : (s.withTime t).staging = s.staging := rfl
@[simp] theorem withTime_seq (t : Timebase) : (s.withTime t).seq = s.seq := rfl
@[simp] theorem withTime_power (t : Timebase) : (s.withTime t).power = s.power := rfl
@[simp] theorem withTime_time (t : Timebase) : (s.withTime t).time = t := rfl
@[simp] theorem withTime_events (t : Timebase) : (s.withTime t).events = s.events := rfl
@[simp] theorem withTime_fuses (t : Timebase) : (s.withTime t).fuses = s.fuses := rfl
@[simp] theorem withTime_profile (t : Timebase) : (s.withTime t).profile = s.profile := rfl
@[simp] theorem withTime_powered (t : Timebase) : (s.withTime t).powered = s.powered := rfl
@[simp] theorem withTime_resetHeld (t : Timebase) : (s.withTime t).resetHeld = s.resetHeld := rfl
@[simp] theorem withTime_answers (t : Timebase) : (s.withTime t).answers = s.answers := rfl
@[simp] theorem withTime_link (t : Timebase) : (s.withTime t).link = s.link := rfl
@[simp] theorem withTime_draws (t : Timebase) : (s.withTime t).draws = s.draws := rfl
@[simp] theorem withTime_pending (t : Timebase) : (s.withTime t).pending = s.pending := rfl

/-! withFuses -/
@[simp] theorem withFuses_port (f : Fuses) : (s.withFuses f).port = s.port := rfl
@[simp] theorem withFuses_control (f : Fuses) : (s.withFuses f).control = s.control := rfl
@[simp] theorem withFuses_rule (f : Fuses) : (s.withFuses f).rule = s.rule := rfl
@[simp] theorem withFuses_capture (f : Fuses) : (s.withFuses f).capture = s.capture := rfl
@[simp] theorem withFuses_staging (f : Fuses) : (s.withFuses f).staging = s.staging := rfl
@[simp] theorem withFuses_seq (f : Fuses) : (s.withFuses f).seq = s.seq := rfl
@[simp] theorem withFuses_power (f : Fuses) : (s.withFuses f).power = s.power := rfl
@[simp] theorem withFuses_time (f : Fuses) : (s.withFuses f).time = s.time := rfl
@[simp] theorem withFuses_events (f : Fuses) : (s.withFuses f).events = s.events := rfl
@[simp] theorem withFuses_fuses (f : Fuses) : (s.withFuses f).fuses = f := rfl
@[simp] theorem withFuses_profile (f : Fuses) : (s.withFuses f).profile = s.profile := rfl
@[simp] theorem withFuses_powered (f : Fuses) : (s.withFuses f).powered = s.powered := rfl
@[simp] theorem withFuses_resetHeld (f : Fuses) : (s.withFuses f).resetHeld = s.resetHeld := rfl
@[simp] theorem withFuses_answers (f : Fuses) : (s.withFuses f).answers = s.answers := rfl
@[simp] theorem withFuses_link (f : Fuses) : (s.withFuses f).link = s.link := rfl
@[simp] theorem withFuses_draws (f : Fuses) : (s.withFuses f).draws = s.draws := rfl
@[simp] theorem withFuses_pending (f : Fuses) : (s.withFuses f).pending = s.pending := rfl

/-! withPending -/
@[simp] theorem withPending_port (l : List Instr) : (s.withPending l).port = s.port := rfl
@[simp] theorem withPending_control (l : List Instr) : (s.withPending l).control = s.control := rfl
@[simp] theorem withPending_rule (l : List Instr) : (s.withPending l).rule = s.rule := rfl
@[simp] theorem withPending_capture (l : List Instr) : (s.withPending l).capture = s.capture := rfl
@[simp] theorem withPending_staging (l : List Instr) : (s.withPending l).staging = s.staging := rfl
@[simp] theorem withPending_seq (l : List Instr) : (s.withPending l).seq = s.seq := rfl
@[simp] theorem withPending_power (l : List Instr) : (s.withPending l).power = s.power := rfl
@[simp] theorem withPending_time (l : List Instr) : (s.withPending l).time = s.time := rfl
@[simp] theorem withPending_events (l : List Instr) : (s.withPending l).events = s.events := rfl
@[simp] theorem withPending_fuses (l : List Instr) : (s.withPending l).fuses = s.fuses := rfl
@[simp] theorem withPending_profile (l : List Instr) : (s.withPending l).profile = s.profile := rfl
@[simp] theorem withPending_powered (l : List Instr) : (s.withPending l).powered = s.powered := rfl
@[simp] theorem withPending_resetHeld (l : List Instr) : (s.withPending l).resetHeld = s.resetHeld := rfl
@[simp] theorem withPending_answers (l : List Instr) : (s.withPending l).answers = s.answers := rfl
@[simp] theorem withPending_link (l : List Instr) : (s.withPending l).link = s.link := rfl
@[simp] theorem withPending_draws (l : List Instr) : (s.withPending l).draws = s.draws := rfl
@[simp] theorem withPending_pending (l : List Instr) : (s.withPending l).pending = l := rfl

/-! clearOut -/
@[simp] theorem clearOut_port : s.clearOut.port = s.port := rfl
@[simp] theorem clearOut_control : s.clearOut.control = s.control := rfl
@[simp] theorem clearOut_rule : s.clearOut.rule = s.rule := rfl
@[simp] theorem clearOut_capture : s.clearOut.capture = s.capture := rfl
@[simp] theorem clearOut_staging : s.clearOut.staging = s.staging := rfl
@[simp] theorem clearOut_seq : s.clearOut.seq = s.seq := rfl
@[simp] theorem clearOut_power : s.clearOut.power = s.power := rfl
@[simp] theorem clearOut_time : s.clearOut.time = s.time := rfl
@[simp] theorem clearOut_events : s.clearOut.events = s.events := rfl
@[simp] theorem clearOut_fuses : s.clearOut.fuses = s.fuses := rfl
@[simp] theorem clearOut_profile : s.clearOut.profile = s.profile := rfl
@[simp] theorem clearOut_powered : s.clearOut.powered = s.powered := rfl
@[simp] theorem clearOut_resetHeld : s.clearOut.resetHeld = s.resetHeld := rfl
@[simp] theorem clearOut_answers : s.clearOut.answers = [] := rfl
@[simp] theorem clearOut_link : s.clearOut.link = [] := rfl
@[simp] theorem clearOut_draws : s.clearOut.draws = s.draws := rfl
@[simp] theorem clearOut_pending : s.clearOut.pending = s.pending := rfl

/-! giveAnswer -/
@[simp] theorem giveAnswer_port (a : Answer) : (s.giveAnswer a).port = s.port := rfl
@[simp] theorem giveAnswer_control (a : Answer) : (s.giveAnswer a).control = s.control := rfl
@[simp] theorem giveAnswer_rule (a : Answer) : (s.giveAnswer a).rule = s.rule := rfl
@[simp] theorem giveAnswer_capture (a : Answer) : (s.giveAnswer a).capture = s.capture := rfl
@[simp] theorem giveAnswer_staging (a : Answer) : (s.giveAnswer a).staging = s.staging := rfl
@[simp] theorem giveAnswer_seq (a : Answer) : (s.giveAnswer a).seq = s.seq := rfl
@[simp] theorem giveAnswer_power (a : Answer) : (s.giveAnswer a).power = s.power := rfl
@[simp] theorem giveAnswer_time (a : Answer) : (s.giveAnswer a).time = s.time := rfl
@[simp] theorem giveAnswer_events (a : Answer) : (s.giveAnswer a).events = s.events := rfl
@[simp] theorem giveAnswer_fuses (a : Answer) : (s.giveAnswer a).fuses = s.fuses := rfl
@[simp] theorem giveAnswer_profile (a : Answer) : (s.giveAnswer a).profile = s.profile := rfl
@[simp] theorem giveAnswer_powered (a : Answer) : (s.giveAnswer a).powered = s.powered := rfl
@[simp] theorem giveAnswer_resetHeld (a : Answer) : (s.giveAnswer a).resetHeld = s.resetHeld := rfl
@[simp] theorem giveAnswer_answers (a : Answer) : (s.giveAnswer a).answers = s.answers ++ [a] := rfl
@[simp] theorem giveAnswer_link (a : Answer) : (s.giveAnswer a).link = s.link := rfl
@[simp] theorem giveAnswer_draws (a : Answer) : (s.giveAnswer a).draws = s.draws := rfl
@[simp] theorem giveAnswer_pending (a : Answer) : (s.giveAnswer a).pending = s.pending := rfl

/-! issue -/
@[simp] theorem issue_port (x : Spi) : (s.issue x).port = s.port := rfl
@[simp] theorem issue_control (x : Spi) : (s.issue x).control = s.control := rfl
@[simp] theorem issue_rule (x : Spi) : (s.issue x).rule = s.rule := rfl
@[simp] theorem issue_capture (x : Spi) : (s.issue x).capture = s.capture := rfl
@[simp] theorem issue_staging (x : Spi) : (s.issue x).staging = s.staging := rfl
@[simp] theorem issue_seq (x : Spi) : (s.issue x).seq = s.seq := rfl
@[simp] theorem issue_power (x : Spi) : (s.issue x).power = s.power := rfl
@[simp] theorem issue_time (x : Spi) : (s.issue x).time = s.time := rfl
@[simp] theorem issue_events (x : Spi) : (s.issue x).events = s.events := rfl
@[simp] theorem issue_fuses (x : Spi) : (s.issue x).fuses = s.fuses := rfl
@[simp] theorem issue_profile (x : Spi) : (s.issue x).profile = s.profile := rfl
@[simp] theorem issue_powered (x : Spi) : (s.issue x).powered = s.powered := rfl
@[simp] theorem issue_resetHeld (x : Spi) : (s.issue x).resetHeld = s.resetHeld := rfl
@[simp] theorem issue_answers (x : Spi) : (s.issue x).answers = s.answers := rfl
@[simp] theorem issue_link (x : Spi) : (s.issue x).link = s.link ++ [x] := rfl
@[simp] theorem issue_draws (x : Spi) : (s.issue x).draws = s.draws := rfl
@[simp] theorem issue_pending (x : Spi) : (s.issue x).pending = s.pending := rfl

/-! draw -/
@[simp] theorem draw_port : s.draw.port = s.port := rfl
@[simp] theorem draw_control : s.draw.control = s.control := rfl
@[simp] theorem draw_rule : s.draw.rule = s.rule := rfl
@[simp] theorem draw_capture : s.draw.capture = s.capture := rfl
@[simp] theorem draw_staging : s.draw.staging = s.staging := rfl
@[simp] theorem draw_seq : s.draw.seq = s.seq := rfl
@[simp] theorem draw_power : s.draw.power = s.power := rfl
@[simp] theorem draw_time : s.draw.time = s.time := rfl
@[simp] theorem draw_events : s.draw.events = s.events := rfl
@[simp] theorem draw_fuses : s.draw.fuses = s.fuses := rfl
@[simp] theorem draw_profile : s.draw.profile = s.profile := rfl
@[simp] theorem draw_powered : s.draw.powered = s.powered := rfl
@[simp] theorem draw_resetHeld : s.draw.resetHeld = s.resetHeld := rfl
@[simp] theorem draw_answers : s.draw.answers = s.answers := rfl
@[simp] theorem draw_link : s.draw.link = s.link := rfl
@[simp] theorem draw_draws : s.draw.draws = s.draws + 1 := rfl
@[simp] theorem draw_pending : s.draw.pending = s.pending := rfl

/-! raise -/
@[simp] theorem raise_port (e : Event) : (s.raise e).port = s.port := rfl
@[simp] theorem raise_control (e : Event) : (s.raise e).control = s.control := rfl
@[simp] theorem raise_rule (e : Event) : (s.raise e).rule = s.rule := rfl
@[simp] theorem raise_capture (e : Event) : (s.raise e).capture = s.capture := rfl
@[simp] theorem raise_staging (e : Event) : (s.raise e).staging = s.staging := rfl
@[simp] theorem raise_seq (e : Event) : (s.raise e).seq = s.seq := rfl
@[simp] theorem raise_power (e : Event) : (s.raise e).power = s.power := rfl
@[simp] theorem raise_time (e : Event) : (s.raise e).time = s.time := rfl
@[simp] theorem raise_events (e : Event) : (s.raise e).events = { s.events with flags := s.events.flags ||| eventMask e } := rfl
@[simp] theorem raise_fuses (e : Event) : (s.raise e).fuses = s.fuses := rfl
@[simp] theorem raise_profile (e : Event) : (s.raise e).profile = s.profile := rfl
@[simp] theorem raise_powered (e : Event) : (s.raise e).powered = s.powered := rfl
@[simp] theorem raise_resetHeld (e : Event) : (s.raise e).resetHeld = s.resetHeld := rfl
@[simp] theorem raise_answers (e : Event) : (s.raise e).answers = s.answers := rfl
@[simp] theorem raise_link (e : Event) : (s.raise e).link = s.link := rfl
@[simp] theorem raise_draws (e : Event) : (s.raise e).draws = s.draws := rfl
@[simp] theorem raise_pending (e : Event) : (s.raise e).pending = s.pending := rfl

/-! setSeqSt -/
@[simp] theorem setSeqSt_port (x : SeqState) : (s.setSeqSt x).port = s.port := rfl
@[simp] theorem setSeqSt_control (x : SeqState) : (s.setSeqSt x).control = s.control := rfl
@[simp] theorem setSeqSt_rule (x : SeqState) : (s.setSeqSt x).rule = s.rule := rfl
@[simp] theorem setSeqSt_capture (x : SeqState) : (s.setSeqSt x).capture = s.capture := rfl
@[simp] theorem setSeqSt_staging (x : SeqState) : (s.setSeqSt x).staging = s.staging := rfl
@[simp] theorem setSeqSt_seq (x : SeqState) : (s.setSeqSt x).seq = { s.seq with st := x } := rfl
@[simp] theorem setSeqSt_power (x : SeqState) : (s.setSeqSt x).power = s.power := rfl
@[simp] theorem setSeqSt_time (x : SeqState) : (s.setSeqSt x).time = s.time := rfl
@[simp] theorem setSeqSt_events (x : SeqState) : (s.setSeqSt x).events = s.events := rfl
@[simp] theorem setSeqSt_fuses (x : SeqState) : (s.setSeqSt x).fuses = s.fuses := rfl
@[simp] theorem setSeqSt_profile (x : SeqState) : (s.setSeqSt x).profile = s.profile := rfl
@[simp] theorem setSeqSt_powered (x : SeqState) : (s.setSeqSt x).powered = s.powered := rfl
@[simp] theorem setSeqSt_resetHeld (x : SeqState) : (s.setSeqSt x).resetHeld = s.resetHeld := rfl
@[simp] theorem setSeqSt_answers (x : SeqState) : (s.setSeqSt x).answers = s.answers := rfl
@[simp] theorem setSeqSt_link (x : SeqState) : (s.setSeqSt x).link = s.link := rfl
@[simp] theorem setSeqSt_draws (x : SeqState) : (s.setSeqSt x).draws = s.draws := rfl
@[simp] theorem setSeqSt_pending (x : SeqState) : (s.setSeqSt x).pending = s.pending := rfl

/-! setPowerSt -/
@[simp] theorem setPowerSt_port (x : PowerState) : (s.setPowerSt x).port = s.port := rfl
@[simp] theorem setPowerSt_control (x : PowerState) : (s.setPowerSt x).control = s.control := rfl
@[simp] theorem setPowerSt_rule (x : PowerState) : (s.setPowerSt x).rule = s.rule := rfl
@[simp] theorem setPowerSt_capture (x : PowerState) : (s.setPowerSt x).capture = s.capture := rfl
@[simp] theorem setPowerSt_staging (x : PowerState) : (s.setPowerSt x).staging = s.staging := rfl
@[simp] theorem setPowerSt_seq (x : PowerState) : (s.setPowerSt x).seq = s.seq := rfl
@[simp] theorem setPowerSt_power (x : PowerState) : (s.setPowerSt x).power = { s.power with st := x } := rfl
@[simp] theorem setPowerSt_time (x : PowerState) : (s.setPowerSt x).time = s.time := rfl
@[simp] theorem setPowerSt_events (x : PowerState) : (s.setPowerSt x).events = s.events := rfl
@[simp] theorem setPowerSt_fuses (x : PowerState) : (s.setPowerSt x).fuses = s.fuses := rfl
@[simp] theorem setPowerSt_profile (x : PowerState) : (s.setPowerSt x).profile = s.profile := rfl
@[simp] theorem setPowerSt_powered (x : PowerState) : (s.setPowerSt x).powered = s.powered := rfl
@[simp] theorem setPowerSt_resetHeld (x : PowerState) : (s.setPowerSt x).resetHeld = s.resetHeld := rfl
@[simp] theorem setPowerSt_answers (x : PowerState) : (s.setPowerSt x).answers = s.answers := rfl
@[simp] theorem setPowerSt_link (x : PowerState) : (s.setPowerSt x).link = s.link := rfl
@[simp] theorem setPowerSt_draws (x : PowerState) : (s.setPowerSt x).draws = s.draws := rfl
@[simp] theorem setPowerSt_pending (x : PowerState) : (s.setPowerSt x).pending = s.pending := rfl

/-! setWrite -/
@[simp] theorem setWrite_port (w : Option WriteInProgress) : (s.setWrite w).port = { s.port with write := w } := rfl
@[simp] theorem setWrite_control (w : Option WriteInProgress) : (s.setWrite w).control = s.control := rfl
@[simp] theorem setWrite_rule (w : Option WriteInProgress) : (s.setWrite w).rule = s.rule := rfl
@[simp] theorem setWrite_capture (w : Option WriteInProgress) : (s.setWrite w).capture = s.capture := rfl
@[simp] theorem setWrite_staging (w : Option WriteInProgress) : (s.setWrite w).staging = s.staging := rfl
@[simp] theorem setWrite_seq (w : Option WriteInProgress) : (s.setWrite w).seq = s.seq := rfl
@[simp] theorem setWrite_power (w : Option WriteInProgress) : (s.setWrite w).power = s.power := rfl
@[simp] theorem setWrite_time (w : Option WriteInProgress) : (s.setWrite w).time = s.time := rfl
@[simp] theorem setWrite_events (w : Option WriteInProgress) : (s.setWrite w).events = s.events := rfl
@[simp] theorem setWrite_fuses (w : Option WriteInProgress) : (s.setWrite w).fuses = s.fuses := rfl
@[simp] theorem setWrite_profile (w : Option WriteInProgress) : (s.setWrite w).profile = s.profile := rfl
@[simp] theorem setWrite_powered (w : Option WriteInProgress) : (s.setWrite w).powered = s.powered := rfl
@[simp] theorem setWrite_resetHeld (w : Option WriteInProgress) : (s.setWrite w).resetHeld = s.resetHeld := rfl
@[simp] theorem setWrite_answers (w : Option WriteInProgress) : (s.setWrite w).answers = s.answers := rfl
@[simp] theorem setWrite_link (w : Option WriteInProgress) : (s.setWrite w).link = s.link := rfl
@[simp] theorem setWrite_draws (w : Option WriteInProgress) : (s.setWrite w).draws = s.draws := rfl
@[simp] theorem setWrite_pending (w : Option WriteInProgress) : (s.setWrite w).pending = s.pending := rfl

/-! setReads -/
@[simp] theorem setReads_port (r : List Read) : (s.setReads r).port = { s.port with reads := r } := rfl
@[simp] theorem setReads_control (r : List Read) : (s.setReads r).control = s.control := rfl
@[simp] theorem setReads_rule (r : List Read) : (s.setReads r).rule = s.rule := rfl
@[simp] theorem setReads_capture (r : List Read) : (s.setReads r).capture = s.capture := rfl
@[simp] theorem setReads_staging (r : List Read) : (s.setReads r).staging = s.staging := rfl
@[simp] theorem setReads_seq (r : List Read) : (s.setReads r).seq = s.seq := rfl
@[simp] theorem setReads_power (r : List Read) : (s.setReads r).power = s.power := rfl
@[simp] theorem setReads_time (r : List Read) : (s.setReads r).time = s.time := rfl
@[simp] theorem setReads_events (r : List Read) : (s.setReads r).events = s.events := rfl
@[simp] theorem setReads_fuses (r : List Read) : (s.setReads r).fuses = s.fuses := rfl
@[simp] theorem setReads_profile (r : List Read) : (s.setReads r).profile = s.profile := rfl
@[simp] theorem setReads_powered (r : List Read) : (s.setReads r).powered = s.powered := rfl
@[simp] theorem setReads_resetHeld (r : List Read) : (s.setReads r).resetHeld = s.resetHeld := rfl
@[simp] theorem setReads_answers (r : List Read) : (s.setReads r).answers = s.answers := rfl
@[simp] theorem setReads_link (r : List Read) : (s.setReads r).link = s.link := rfl
@[simp] theorem setReads_draws (r : List Read) : (s.setReads r).draws = s.draws := rfl
@[simp] theorem setReads_pending (r : List Read) : (s.setReads r).pending = s.pending := rfl

/-! setGuard -/
@[simp] theorem setGuard_port (g : Bool) : (s.setGuard g).port = s.port := rfl
@[simp] theorem setGuard_control (g : Bool) : (s.setGuard g).control = s.control := rfl
@[simp] theorem setGuard_rule (g : Bool) : (s.setGuard g).rule = { s.rule with guard := g } := rfl
@[simp] theorem setGuard_capture (g : Bool) : (s.setGuard g).capture = s.capture := rfl
@[simp] theorem setGuard_staging (g : Bool) : (s.setGuard g).staging = s.staging := rfl
@[simp] theorem setGuard_seq (g : Bool) : (s.setGuard g).seq = s.seq := rfl
@[simp] theorem setGuard_power (g : Bool) : (s.setGuard g).power = s.power := rfl
@[simp] theorem setGuard_time (g : Bool) : (s.setGuard g).time = s.time := rfl
@[simp] theorem setGuard_events (g : Bool) : (s.setGuard g).events = s.events := rfl
@[simp] theorem setGuard_fuses (g : Bool) : (s.setGuard g).fuses = s.fuses := rfl
@[simp] theorem setGuard_profile (g : Bool) : (s.setGuard g).profile = s.profile := rfl
@[simp] theorem setGuard_powered (g : Bool) : (s.setGuard g).powered = s.powered := rfl
@[simp] theorem setGuard_resetHeld (g : Bool) : (s.setGuard g).resetHeld = s.resetHeld := rfl
@[simp] theorem setGuard_answers (g : Bool) : (s.setGuard g).answers = s.answers := rfl
@[simp] theorem setGuard_link (g : Bool) : (s.setGuard g).link = s.link := rfl
@[simp] theorem setGuard_draws (g : Bool) : (s.setGuard g).draws = s.draws := rfl
@[simp] theorem setGuard_pending (g : Bool) : (s.setGuard g).pending = s.pending := rfl

/-! setPowerReq -/
@[simp] theorem setPowerReq_port (r : Option PowerReq) : (s.setPowerReq r).port = s.port := rfl
@[simp] theorem setPowerReq_control (r : Option PowerReq) : (s.setPowerReq r).control = s.control := rfl
@[simp] theorem setPowerReq_rule (r : Option PowerReq) : (s.setPowerReq r).rule = s.rule := rfl
@[simp] theorem setPowerReq_capture (r : Option PowerReq) : (s.setPowerReq r).capture = s.capture := rfl
@[simp] theorem setPowerReq_staging (r : Option PowerReq) : (s.setPowerReq r).staging = s.staging := rfl
@[simp] theorem setPowerReq_seq (r : Option PowerReq) : (s.setPowerReq r).seq = { s.seq with powerReq := r } := rfl
@[simp] theorem setPowerReq_power (r : Option PowerReq) : (s.setPowerReq r).power = s.power := rfl
@[simp] theorem setPowerReq_time (r : Option PowerReq) : (s.setPowerReq r).time = s.time := rfl
@[simp] theorem setPowerReq_events (r : Option PowerReq) : (s.setPowerReq r).events = s.events := rfl
@[simp] theorem setPowerReq_fuses (r : Option PowerReq) : (s.setPowerReq r).fuses = s.fuses := rfl
@[simp] theorem setPowerReq_profile (r : Option PowerReq) : (s.setPowerReq r).profile = s.profile := rfl
@[simp] theorem setPowerReq_powered (r : Option PowerReq) : (s.setPowerReq r).powered = s.powered := rfl
@[simp] theorem setPowerReq_resetHeld (r : Option PowerReq) : (s.setPowerReq r).resetHeld = s.resetHeld := rfl
@[simp] theorem setPowerReq_answers (r : Option PowerReq) : (s.setPowerReq r).answers = s.answers := rfl
@[simp] theorem setPowerReq_link (r : Option PowerReq) : (s.setPowerReq r).link = s.link := rfl
@[simp] theorem setPowerReq_draws (r : Option PowerReq) : (s.setPowerReq r).draws = s.draws := rfl
@[simp] theorem setPowerReq_pending (r : Option PowerReq) : (s.setPowerReq r).pending = s.pending := rfl

/-! setLanes -/
@[simp] theorem setLanes_port (o : Bool) : (s.setLanes o).port = { s.port with lanesOpen := o } := rfl
@[simp] theorem setLanes_control (o : Bool) : (s.setLanes o).control = s.control := rfl
@[simp] theorem setLanes_rule (o : Bool) : (s.setLanes o).rule = s.rule := rfl
@[simp] theorem setLanes_capture (o : Bool) : (s.setLanes o).capture = s.capture := rfl
@[simp] theorem setLanes_staging (o : Bool) : (s.setLanes o).staging = s.staging := rfl
@[simp] theorem setLanes_seq (o : Bool) : (s.setLanes o).seq = s.seq := rfl
@[simp] theorem setLanes_power (o : Bool) : (s.setLanes o).power = s.power := rfl
@[simp] theorem setLanes_time (o : Bool) : (s.setLanes o).time = s.time := rfl
@[simp] theorem setLanes_events (o : Bool) : (s.setLanes o).events = s.events := rfl
@[simp] theorem setLanes_fuses (o : Bool) : (s.setLanes o).fuses = s.fuses := rfl
@[simp] theorem setLanes_profile (o : Bool) : (s.setLanes o).profile = s.profile := rfl
@[simp] theorem setLanes_powered (o : Bool) : (s.setLanes o).powered = s.powered := rfl
@[simp] theorem setLanes_resetHeld (o : Bool) : (s.setLanes o).resetHeld = s.resetHeld := rfl
@[simp] theorem setLanes_answers (o : Bool) : (s.setLanes o).answers = s.answers := rfl
@[simp] theorem setLanes_link (o : Bool) : (s.setLanes o).link = s.link := rfl
@[simp] theorem setLanes_draws (o : Bool) : (s.setLanes o).draws = s.draws := rfl
@[simp] theorem setLanes_pending (o : Bool) : (s.setLanes o).pending = s.pending := rfl

end Sys2Proof.Machine.State
end

