-- ==== Sys2Proof/Laws/Frames.lean ====
section
/-! SUPPORT. The frame of each shared operation: the blocks of State it leaves as they are. -/

namespace Sys2Proof.Machine.State

/-- What each step of a fold leaves as it is, the fold leaves as it is. -/
theorem foldl_keeps {α β : Type} (f : State → α → State) (g : State → β) (h : ∀ s a, g (f s a) = g s) :
    ∀ (l : List α) (s : State), g (l.foldl f s) = g s
  | [], _ => rfl
  | a :: l, s => by rw [List.foldl_cons, foldl_keeps f g h l, h]

variable (s : State)

@[simp] theorem raiseAll_frame (l : List Event) :
    (s.raiseAll l).port = s.port ∧ (s.raiseAll l).control = s.control ∧ (s.raiseAll l).rule = s.rule ∧
    (s.raiseAll l).capture = s.capture ∧ (s.raiseAll l).staging = s.staging ∧ (s.raiseAll l).seq = s.seq ∧
    (s.raiseAll l).power = s.power ∧ (s.raiseAll l).time = s.time ∧ (s.raiseAll l).fuses = s.fuses ∧
    (s.raiseAll l).profile = s.profile ∧ (s.raiseAll l).powered = s.powered ∧
    (s.raiseAll l).resetHeld = s.resetHeld ∧ (s.raiseAll l).answers = s.answers ∧ (s.raiseAll l).link = s.link ∧
    (s.raiseAll l).draws = s.draws ∧ (s.raiseAll l).pending = s.pending := by
  unfold raiseAll
  refine ⟨?_, ?_, ?_, ?_, ?_, ?_, ?_, ?_, ?_, ?_, ?_, ?_, ?_, ?_, ?_, ?_⟩
  all_goals exact foldl_keeps _ (fun x => _) (fun x a => by simp) _ _

@[simp] theorem updateRead_frame (t : Nat) (f : Read → Read) :
    (s.updateRead t f).control = s.control ∧ (s.updateRead t f).rule = s.rule ∧
    (s.updateRead t f).capture = s.capture ∧ (s.updateRead t f).staging = s.staging ∧
    (s.updateRead t f).seq = s.seq ∧ (s.updateRead t f).power = s.power ∧ (s.updateRead t f).time = s.time ∧
    (s.updateRead t f).events = s.events ∧ (s.updateRead t f).fuses = s.fuses ∧
    (s.updateRead t f).profile = s.profile ∧ (s.updateRead t f).powered = s.powered ∧
    (s.updateRead t f).resetHeld = s.resetHeld ∧ (s.updateRead t f).answers = s.answers ∧
    (s.updateRead t f).link = s.link ∧ (s.updateRead t f).draws = s.draws ∧
    (s.updateRead t f).pending = s.pending := by
  simp [updateRead]

@[simp] theorem setStage_frame (t : Nat) (x : ReadStage) :
    (s.setStage t x).control = s.control ∧ (s.setStage t x).rule = s.rule ∧ (s.setStage t x).capture = s.capture ∧
    (s.setStage t x).staging = s.staging ∧ (s.setStage t x).seq = s.seq ∧ (s.setStage t x).power = s.power ∧
    (s.setStage t x).time = s.time ∧ (s.setStage t x).events = s.events ∧ (s.setStage t x).fuses = s.fuses ∧
    (s.setStage t x).profile = s.profile ∧ (s.setStage t x).powered = s.powered ∧
    (s.setStage t x).resetHeld = s.resetHeld ∧ (s.setStage t x).answers = s.answers ∧
    (s.setStage t x).link = s.link ∧ (s.setStage t x).draws = s.draws ∧ (s.setStage t x).pending = s.pending := by
  simp [setStage]

@[simp] theorem issueBare_frame (f : FlashFn) :
    (s.issueBare f).port = s.port ∧ (s.issueBare f).control = s.control ∧ (s.issueBare f).rule = s.rule ∧
    (s.issueBare f).capture = s.capture ∧ (s.issueBare f).staging = s.staging ∧ (s.issueBare f).seq = s.seq ∧
    (s.issueBare f).power = s.power ∧ (s.issueBare f).time = s.time ∧ (s.issueBare f).events = s.events ∧
    (s.issueBare f).fuses = s.fuses ∧ (s.issueBare f).profile = s.profile ∧ (s.issueBare f).powered = s.powered ∧
    (s.issueBare f).resetHeld = s.resetHeld ∧ (s.issueBare f).answers = s.answers ∧
    (s.issueBare f).draws = s.draws ∧ (s.issueBare f).pending = s.pending := by
  simp [issueBare]

@[simp] theorem issueStatus_frame :
    s.issueStatus.port = s.port ∧ s.issueStatus.control = s.control ∧ s.issueStatus.rule = s.rule ∧
    s.issueStatus.capture = s.capture ∧ s.issueStatus.staging = s.staging ∧ s.issueStatus.seq = s.seq ∧
    s.issueStatus.power = s.power ∧ s.issueStatus.time = s.time ∧ s.issueStatus.events = s.events ∧
    s.issueStatus.fuses = s.fuses ∧ s.issueStatus.profile = s.profile ∧ s.issueStatus.powered = s.powered ∧
    s.issueStatus.resetHeld = s.resetHeld ∧ s.issueStatus.answers = s.answers ∧ s.issueStatus.draws = s.draws ∧
    s.issueStatus.pending = s.pending := by
  simp [issueStatus]

@[simp] theorem issueRead_frame (a n : Nat) :
    (s.issueRead a n).port = s.port ∧ (s.issueRead a n).control = s.control ∧ (s.issueRead a n).rule = s.rule ∧
    (s.issueRead a n).capture = s.capture ∧ (s.issueRead a n).staging = s.staging ∧ (s.issueRead a n).seq = s.seq ∧
    (s.issueRead a n).power = s.power ∧ (s.issueRead a n).time = s.time ∧ (s.issueRead a n).events = s.events ∧
    (s.issueRead a n).fuses = s.fuses ∧ (s.issueRead a n).profile = s.profile ∧
    (s.issueRead a n).powered = s.powered ∧ (s.issueRead a n).resetHeld = s.resetHeld ∧
    (s.issueRead a n).answers = s.answers ∧ (s.issueRead a n).draws = s.draws ∧
    (s.issueRead a n).pending = s.pending := by
  simp [issueRead]

@[simp] theorem issueErase_frame (n : Nat) :
    (s.issueErase n).port = s.port ∧ (s.issueErase n).control = s.control ∧ (s.issueErase n).rule = s.rule ∧
    (s.issueErase n).capture = s.capture ∧ (s.issueErase n).staging = s.staging ∧ (s.issueErase n).seq = s.seq ∧
    (s.issueErase n).power = s.power ∧ (s.issueErase n).time = s.time ∧ (s.issueErase n).events = s.events ∧
    (s.issueErase n).fuses = s.fuses ∧ (s.issueErase n).profile = s.profile ∧ (s.issueErase n).powered = s.powered ∧
    (s.issueErase n).resetHeld = s.resetHeld ∧ (s.issueErase n).answers = s.answers ∧
    (s.issueErase n).draws = s.draws ∧ (s.issueErase n).pending = s.pending := by
  simp [issueErase]

@[simp] theorem issueProgram_frame (n p : Nat) (i : Image) :
    (s.issueProgram n p i).port = s.port ∧ (s.issueProgram n p i).control = s.control ∧
    (s.issueProgram n p i).rule = s.rule ∧ (s.issueProgram n p i).capture = s.capture ∧
    (s.issueProgram n p i).staging = s.staging ∧ (s.issueProgram n p i).seq = s.seq ∧
    (s.issueProgram n p i).power = s.power ∧ (s.issueProgram n p i).time = s.time ∧
    (s.issueProgram n p i).events = s.events ∧ (s.issueProgram n p i).fuses = s.fuses ∧
    (s.issueProgram n p i).profile = s.profile ∧ (s.issueProgram n p i).powered = s.powered ∧
    (s.issueProgram n p i).resetHeld = s.resetHeld ∧ (s.issueProgram n p i).answers = s.answers ∧
    (s.issueProgram n p i).draws = s.draws ∧ (s.issueProgram n p i).pending = s.pending := by
  simp [issueProgram]

@[simp] theorem clearDeferred_frame :
    s.clearDeferred.port = s.port ∧ s.clearDeferred.control = s.control ∧ s.clearDeferred.rule = s.rule ∧
    s.clearDeferred.capture = s.capture ∧ s.clearDeferred.staging = s.staging ∧ s.clearDeferred.power = s.power ∧
    s.clearDeferred.time = s.time ∧ s.clearDeferred.events = s.events ∧ s.clearDeferred.fuses = s.fuses ∧
    s.clearDeferred.profile = s.profile ∧ s.clearDeferred.powered = s.powered ∧
    s.clearDeferred.resetHeld = s.resetHeld ∧ s.clearDeferred.answers = s.answers ∧ s.clearDeferred.link = s.link ∧
    s.clearDeferred.draws = s.draws ∧ s.clearDeferred.pending = s.pending := by
  simp [clearDeferred]

@[simp] theorem suspend_frame (o : FlashOp) :
    (s.suspend o).port = s.port ∧ (s.suspend o).control = s.control ∧ (s.suspend o).rule = s.rule ∧
    (s.suspend o).capture = s.capture ∧ (s.suspend o).staging = s.staging ∧ (s.suspend o).power = s.power ∧
    (s.suspend o).time = s.time ∧ (s.suspend o).events = s.events ∧ (s.suspend o).fuses = s.fuses ∧
    (s.suspend o).profile = s.profile ∧ (s.suspend o).powered = s.powered ∧ (s.suspend o).resetHeld = s.resetHeld ∧
    (s.suspend o).answers = s.answers ∧ (s.suspend o).draws = s.draws ∧ (s.suspend o).pending = s.pending := by
  simp [suspend]

@[simp] theorem decideSuspension_frame :
    s.decideSuspension.port = s.port ∧ s.decideSuspension.control = s.control ∧ s.decideSuspension.rule = s.rule ∧
    s.decideSuspension.capture = s.capture ∧ s.decideSuspension.staging = s.staging ∧
    s.decideSuspension.power = s.power ∧ s.decideSuspension.time = s.time ∧ s.decideSuspension.events = s.events ∧
    s.decideSuspension.fuses = s.fuses ∧ s.decideSuspension.profile = s.profile ∧
    s.decideSuspension.powered = s.powered ∧ s.decideSuspension.resetHeld = s.resetHeld ∧
    s.decideSuspension.answers = s.answers ∧ s.decideSuspension.draws = s.draws ∧
    s.decideSuspension.pending = s.pending := by
  simp only [decideSuspension]
  (repeat' split) <;> simp

@[simp] theorem missArrives_frame (t : Nat) :
    (s.missArrives t).port = s.port ∧ (s.missArrives t).control = s.control ∧ (s.missArrives t).rule = s.rule ∧
    (s.missArrives t).capture = s.capture ∧ (s.missArrives t).staging = s.staging ∧
    (s.missArrives t).power = s.power ∧ (s.missArrives t).time = s.time ∧ (s.missArrives t).events = s.events ∧
    (s.missArrives t).fuses = s.fuses ∧ (s.missArrives t).profile = s.profile ∧
    (s.missArrives t).powered = s.powered ∧ (s.missArrives t).resetHeld = s.resetHeld ∧
    (s.missArrives t).answers = s.answers ∧ (s.missArrives t).draws = s.draws ∧
    (s.missArrives t).pending = s.pending := by
  simp only [missArrives]
  (repeat' split) <;> simp

@[simp] theorem wakeReported_frame :
    s.wakeReported.port = s.port ∧ s.wakeReported.control = s.control ∧ s.wakeReported.rule = s.rule ∧
    s.wakeReported.capture = s.capture ∧ s.wakeReported.staging = s.staging ∧ s.wakeReported.seq = s.seq ∧
    s.wakeReported.time = s.time ∧ s.wakeReported.events = s.events ∧ s.wakeReported.fuses = s.fuses ∧
    s.wakeReported.profile = s.profile ∧ s.wakeReported.powered = s.powered ∧
    s.wakeReported.resetHeld = s.resetHeld ∧ s.wakeReported.answers = s.answers ∧ s.wakeReported.link = s.link ∧
    s.wakeReported.draws = s.draws ∧ s.wakeReported.pending = s.pending := by
  simp only [wakeReported]
  (repeat' split) <;> simp

@[simp] theorem requestWake_frame :
    s.requestWake.port = s.port ∧ s.requestWake.control = s.control ∧ s.requestWake.rule = s.rule ∧
    s.requestWake.capture = s.capture ∧ s.requestWake.staging = s.staging ∧ s.requestWake.time = s.time ∧
    s.requestWake.events = s.events ∧ s.requestWake.fuses = s.fuses ∧ s.requestWake.profile = s.profile ∧
    s.requestWake.powered = s.powered ∧ s.requestWake.resetHeld = s.resetHeld ∧ s.requestWake.answers = s.answers ∧
    s.requestWake.draws = s.draws ∧ s.requestWake.pending = s.pending := by
  simp only [requestWake]
  (repeat' split) <;> simp

@[simp] theorem wakePart_frame :
    s.wakePart.port = s.port ∧ s.wakePart.control = s.control ∧ s.wakePart.rule = s.rule ∧
    s.wakePart.capture = s.capture ∧ s.wakePart.staging = s.staging ∧ s.wakePart.time = s.time ∧
    s.wakePart.events = s.events ∧ s.wakePart.fuses = s.fuses ∧ s.wakePart.profile = s.profile ∧
    s.wakePart.powered = s.powered ∧ s.wakePart.resetHeld = s.resetHeld ∧ s.wakePart.answers = s.answers ∧
    s.wakePart.draws = s.draws ∧ s.wakePart.pending = s.pending := by
  simp [wakePart]

@[simp] theorem countShare_frame :
    s.countShare.port = s.port ∧ s.countShare.control = s.control ∧ s.countShare.rule = s.rule ∧
    s.countShare.capture = s.capture ∧ s.countShare.staging = s.staging ∧ s.countShare.power = s.power ∧
    s.countShare.time = s.time ∧ s.countShare.events = s.events ∧ s.countShare.fuses = s.fuses ∧
    s.countShare.profile = s.profile ∧ s.countShare.powered = s.powered ∧ s.countShare.resetHeld = s.resetHeld ∧
    s.countShare.answers = s.answers ∧ s.countShare.link = s.link ∧ s.countShare.draws = s.draws ∧
    s.countShare.pending = s.pending := by
  simp only [countShare]
  (repeat' split) <;> simp

@[simp] theorem zeroShare_frame :
    s.zeroShare.port = s.port ∧ s.zeroShare.control = s.control ∧ s.zeroShare.rule = s.rule ∧
    s.zeroShare.capture = s.capture ∧ s.zeroShare.staging = s.staging ∧ s.zeroShare.power = s.power ∧
    s.zeroShare.time = s.time ∧ s.zeroShare.events = s.events ∧ s.zeroShare.fuses = s.fuses ∧
    s.zeroShare.profile = s.profile ∧ s.zeroShare.powered = s.powered ∧ s.zeroShare.resetHeld = s.resetHeld ∧
    s.zeroShare.answers = s.answers ∧ s.zeroShare.link = s.link ∧ s.zeroShare.draws = s.draws ∧
    s.zeroShare.pending = s.pending := by
  simp [zeroShare]

@[simp] theorem issueMissRead_frame (t : Nat) :
    (s.issueMissRead t).port = s.port ∧ (s.issueMissRead t).control = s.control ∧
    (s.issueMissRead t).rule = s.rule ∧ (s.issueMissRead t).capture = s.capture ∧
    (s.issueMissRead t).staging = s.staging ∧ (s.issueMissRead t).seq = s.seq ∧
    (s.issueMissRead t).power = s.power ∧ (s.issueMissRead t).time = s.time ∧
    (s.issueMissRead t).events = s.events ∧ (s.issueMissRead t).fuses = s.fuses ∧
    (s.issueMissRead t).profile = s.profile ∧ (s.issueMissRead t).powered = s.powered ∧
    (s.issueMissRead t).resetHeld = s.resetHeld ∧ (s.issueMissRead t).answers = s.answers ∧
    (s.issueMissRead t).draws = s.draws ∧ (s.issueMissRead t).pending = s.pending := by
  simp only [issueMissRead]
  (repeat' split) <;> simp

@[simp] theorem grantMiss_frame (t : Nat) (l : List Nat) :
    (s.grantMiss t l).port = s.port ∧ (s.grantMiss t l).control = s.control ∧ (s.grantMiss t l).rule = s.rule ∧
    (s.grantMiss t l).capture = s.capture ∧ (s.grantMiss t l).staging = s.staging ∧
    (s.grantMiss t l).power = s.power ∧ (s.grantMiss t l).time = s.time ∧ (s.grantMiss t l).events = s.events ∧
    (s.grantMiss t l).fuses = s.fuses ∧ (s.grantMiss t l).profile = s.profile ∧
    (s.grantMiss t l).powered = s.powered ∧ (s.grantMiss t l).resetHeld = s.resetHeld ∧
    (s.grantMiss t l).answers = s.answers ∧ (s.grantMiss t l).draws = s.draws ∧
    (s.grantMiss t l).pending = s.pending := by
  simp [grantMiss]

@[simp] theorem grantFill_frame (f : FillReq) (l : List FillReq) :
    (s.grantFill f l).port = s.port ∧ (s.grantFill f l).control = s.control ∧ (s.grantFill f l).rule = s.rule ∧
    (s.grantFill f l).capture = s.capture ∧ (s.grantFill f l).staging = s.staging ∧
    (s.grantFill f l).power = s.power ∧ (s.grantFill f l).time = s.time ∧ (s.grantFill f l).events = s.events ∧
    (s.grantFill f l).fuses = s.fuses ∧ (s.grantFill f l).profile = s.profile ∧
    (s.grantFill f l).powered = s.powered ∧ (s.grantFill f l).resetHeld = s.resetHeld ∧
    (s.grantFill f l).answers = s.answers ∧ (s.grantFill f l).draws = s.draws ∧
    (s.grantFill f l).pending = s.pending := by
  simp [grantFill]

@[simp] theorem issueStep_frame (d : Sector) (c : CommitStep) :
    (s.issueStep d c).port = s.port ∧ (s.issueStep d c).control = s.control ∧ (s.issueStep d c).rule = s.rule ∧
    (s.issueStep d c).capture = s.capture ∧ (s.issueStep d c).staging = s.staging ∧
    (s.issueStep d c).power = s.power ∧ (s.issueStep d c).time = s.time ∧ (s.issueStep d c).events = s.events ∧
    (s.issueStep d c).fuses = s.fuses ∧ (s.issueStep d c).profile = s.profile ∧
    (s.issueStep d c).powered = s.powered ∧ (s.issueStep d c).resetHeld = s.resetHeld ∧
    (s.issueStep d c).answers = s.answers ∧ (s.issueStep d c).draws = s.draws ∧
    (s.issueStep d c).pending = s.pending := by
  cases c <;> simp [issueStep]

@[simp] theorem startCommit_frame (i : Nat) (l : List Nat) :
    (s.startCommit i l).port = s.port ∧ (s.startCommit i l).control = s.control ∧
    (s.startCommit i l).rule = s.rule ∧ (s.startCommit i l).capture = s.capture ∧
    (s.startCommit i l).power = s.power ∧ (s.startCommit i l).time = s.time ∧
    (s.startCommit i l).events = s.events ∧ (s.startCommit i l).fuses = s.fuses ∧
    (s.startCommit i l).profile = s.profile ∧ (s.startCommit i l).powered = s.powered ∧
    (s.startCommit i l).resetHeld = s.resetHeld ∧ (s.startCommit i l).answers = s.answers ∧
    (s.startCommit i l).draws = s.draws ∧ (s.startCommit i l).pending = s.pending := by
  simp only [startCommit]
  (repeat' split) <;> simp

@[simp] theorem grantCommit_frame :
    s.grantCommit.port = s.port ∧ s.grantCommit.control = s.control ∧ s.grantCommit.rule = s.rule ∧
    s.grantCommit.capture = s.capture ∧ s.grantCommit.power = s.power ∧ s.grantCommit.time = s.time ∧
    s.grantCommit.events = s.events ∧ s.grantCommit.fuses = s.fuses ∧ s.grantCommit.profile = s.profile ∧
    s.grantCommit.powered = s.powered ∧ s.grantCommit.resetHeld = s.resetHeld ∧ s.grantCommit.answers = s.answers ∧
    s.grantCommit.draws = s.draws ∧ s.grantCommit.pending = s.pending := by
  simp only [grantCommit]
  (repeat' split) <;> simp

@[simp] theorem enterSleep_frame :
    s.enterSleep.port = s.port ∧ s.enterSleep.control = s.control ∧ s.enterSleep.rule = s.rule ∧
    s.enterSleep.capture = s.capture ∧ s.enterSleep.staging = s.staging ∧ s.enterSleep.seq = s.seq ∧
    s.enterSleep.time = s.time ∧ s.enterSleep.fuses = s.fuses ∧ s.enterSleep.profile = s.profile ∧
    s.enterSleep.powered = s.powered ∧ s.enterSleep.resetHeld = s.resetHeld ∧ s.enterSleep.answers = s.answers ∧
    s.enterSleep.link = s.link ∧ s.enterSleep.draws = s.draws ∧ s.enterSleep.pending = s.pending := by
  simp [enterSleep]

@[simp] theorem grantSleep_frame :
    s.grantSleep.port = s.port ∧ s.grantSleep.control = s.control ∧ s.grantSleep.rule = s.rule ∧
    s.grantSleep.capture = s.capture ∧ s.grantSleep.staging = s.staging ∧ s.grantSleep.time = s.time ∧
    s.grantSleep.fuses = s.fuses ∧ s.grantSleep.profile = s.profile ∧ s.grantSleep.powered = s.powered ∧
    s.grantSleep.resetHeld = s.resetHeld ∧ s.grantSleep.answers = s.answers ∧ s.grantSleep.draws = s.draws ∧
    s.grantSleep.pending = s.pending := by
  simp only [grantSleep]
  (repeat' split) <;> simp

@[simp] theorem grantNext_frame :
    s.grantNext.port = s.port ∧ s.grantNext.control = s.control ∧ s.grantNext.rule = s.rule ∧
    s.grantNext.capture = s.capture ∧ s.grantNext.time = s.time ∧ s.grantNext.fuses = s.fuses ∧
    s.grantNext.profile = s.profile ∧ s.grantNext.powered = s.powered ∧ s.grantNext.resetHeld = s.resetHeld ∧
    s.grantNext.answers = s.answers ∧ s.grantNext.draws = s.draws ∧ s.grantNext.pending = s.pending := by
  simp only [grantNext]
  (repeat' split) <;> simp

@[simp] theorem refuseRead_frame (t : Nat) (x : RefusalReason) :
    (s.refuseRead t x).control = s.control ∧ (s.refuseRead t x).rule = s.rule ∧
    (s.refuseRead t x).capture = s.capture ∧ (s.refuseRead t x).staging = s.staging ∧
    (s.refuseRead t x).seq = s.seq ∧ (s.refuseRead t x).power = s.power ∧ (s.refuseRead t x).time = s.time ∧
    (s.refuseRead t x).events = s.events ∧ (s.refuseRead t x).fuses = s.fuses ∧
    (s.refuseRead t x).profile = s.profile ∧ (s.refuseRead t x).powered = s.powered ∧
    (s.refuseRead t x).resetHeld = s.resetHeld ∧ (s.refuseRead t x).answers = s.answers ∧
    (s.refuseRead t x).link = s.link ∧ (s.refuseRead t x).draws = s.draws ∧
    (s.refuseRead t x).pending = s.pending := by
  simp [refuseRead]

@[simp] theorem joinMiss_frame (t : Nat) :
    (s.joinMiss t).control = s.control ∧ (s.joinMiss t).rule = s.rule ∧ (s.joinMiss t).capture = s.capture ∧
    (s.joinMiss t).staging = s.staging ∧ (s.joinMiss t).power = s.power ∧ (s.joinMiss t).time = s.time ∧
    (s.joinMiss t).events = s.events ∧ (s.joinMiss t).fuses = s.fuses ∧ (s.joinMiss t).profile = s.profile ∧
    (s.joinMiss t).powered = s.powered ∧ (s.joinMiss t).resetHeld = s.resetHeld ∧
    (s.joinMiss t).answers = s.answers ∧ (s.joinMiss t).draws = s.draws ∧ (s.joinMiss t).pending = s.pending := by
  simp [joinMiss]

@[simp] theorem routeMiss_frame (t : Nat) :
    (s.routeMiss t).control = s.control ∧ (s.routeMiss t).rule = s.rule ∧ (s.routeMiss t).capture = s.capture ∧
    (s.routeMiss t).staging = s.staging ∧ (s.routeMiss t).time = s.time ∧ (s.routeMiss t).events = s.events ∧
    (s.routeMiss t).fuses = s.fuses ∧ (s.routeMiss t).profile = s.profile ∧ (s.routeMiss t).powered = s.powered ∧
    (s.routeMiss t).resetHeld = s.resetHeld ∧ (s.routeMiss t).answers = s.answers ∧
    (s.routeMiss t).draws = s.draws ∧ (s.routeMiss t).pending = s.pending := by
  simp only [routeMiss]
  (repeat' split) <;> simp

@[simp] theorem hitRead_frame (t i : Nat) (d : Sector) (r : ReadReq) :
    (s.hitRead t i d r).control = s.control ∧ (s.hitRead t i d r).rule = s.rule ∧
    (s.hitRead t i d r).capture = s.capture ∧ (s.hitRead t i d r).seq = s.seq ∧
    (s.hitRead t i d r).power = s.power ∧ (s.hitRead t i d r).time = s.time ∧
    (s.hitRead t i d r).events = s.events ∧ (s.hitRead t i d r).fuses = s.fuses ∧
    (s.hitRead t i d r).profile = s.profile ∧ (s.hitRead t i d r).powered = s.powered ∧
    (s.hitRead t i d r).resetHeld = s.resetHeld ∧ (s.hitRead t i d r).answers = s.answers ∧
    (s.hitRead t i d r).link = s.link ∧ (s.hitRead t i d r).draws = s.draws ∧
    (s.hitRead t i d r).pending = s.pending := by
  simp [hitRead]

@[simp] theorem resolveOverlay_frame (t : Nat) :
    (s.resolveOverlay t).control = s.control ∧ (s.resolveOverlay t).rule = s.rule ∧
    (s.resolveOverlay t).capture = s.capture ∧ (s.resolveOverlay t).time = s.time ∧
    (s.resolveOverlay t).events = s.events ∧ (s.resolveOverlay t).fuses = s.fuses ∧
    (s.resolveOverlay t).profile = s.profile ∧ (s.resolveOverlay t).powered = s.powered ∧
    (s.resolveOverlay t).resetHeld = s.resetHeld ∧ (s.resolveOverlay t).answers = s.answers ∧
    (s.resolveOverlay t).draws = s.draws ∧ (s.resolveOverlay t).pending = s.pending := by
  unfold resolveOverlay resolveEntry
  repeat' split
  all_goals simp

@[simp] theorem resolveHazard_frame (t : Nat) :
    (s.resolveHazard t).control = s.control ∧ (s.resolveHazard t).rule = s.rule ∧
    (s.resolveHazard t).capture = s.capture ∧ (s.resolveHazard t).time = s.time ∧
    (s.resolveHazard t).events = s.events ∧ (s.resolveHazard t).fuses = s.fuses ∧
    (s.resolveHazard t).profile = s.profile ∧ (s.resolveHazard t).powered = s.powered ∧
    (s.resolveHazard t).resetHeld = s.resetHeld ∧ (s.resolveHazard t).answers = s.answers ∧
    (s.resolveHazard t).draws = s.draws ∧ (s.resolveHazard t).pending = s.pending := by
  simp only [resolveHazard]
  (repeat' split) <;> simp

@[simp] theorem missComplete_frame (t : Nat) (b : List Byte) :
    (s.missComplete t b).control = s.control ∧ (s.missComplete t b).rule = s.rule ∧
    (s.missComplete t b).capture = s.capture ∧ (s.missComplete t b).time = s.time ∧
    (s.missComplete t b).events = s.events ∧ (s.missComplete t b).fuses = s.fuses ∧
    (s.missComplete t b).profile = s.profile ∧ (s.missComplete t b).powered = s.powered ∧
    (s.missComplete t b).resetHeld = s.resetHeld ∧ (s.missComplete t b).answers = s.answers ∧
    (s.missComplete t b).draws = s.draws ∧ (s.missComplete t b).pending = s.pending := by
  unfold missComplete resolveEntry
  repeat' split
  all_goals simp

@[simp] theorem resolveAfresh_frame (p : Read → Bool) :
    (s.resolveAfresh p).control = s.control ∧ (s.resolveAfresh p).rule = s.rule ∧
    (s.resolveAfresh p).capture = s.capture ∧ (s.resolveAfresh p).time = s.time ∧
    (s.resolveAfresh p).events = s.events ∧ (s.resolveAfresh p).fuses = s.fuses ∧
    (s.resolveAfresh p).profile = s.profile ∧ (s.resolveAfresh p).powered = s.powered ∧
    (s.resolveAfresh p).resetHeld = s.resetHeld ∧ (s.resolveAfresh p).answers = s.answers ∧
    (s.resolveAfresh p).draws = s.draws ∧ (s.resolveAfresh p).pending = s.pending := by
  unfold resolveAfresh
  refine ⟨?_, ?_, ?_, ?_, ?_, ?_, ?_, ?_, ?_, ?_, ?_, ?_⟩
  all_goals exact foldl_keeps _ (fun x => _) (fun x a => by simp) _ _

@[simp] theorem endOverlay_frame :
    s.endOverlay.rule = s.rule ∧ s.endOverlay.capture = s.capture ∧ s.endOverlay.time = s.time ∧
    s.endOverlay.events = s.events ∧ s.endOverlay.fuses = s.fuses ∧ s.endOverlay.profile = s.profile ∧
    s.endOverlay.powered = s.powered ∧ s.endOverlay.resetHeld = s.resetHeld ∧ s.endOverlay.answers = s.answers ∧
    s.endOverlay.draws = s.draws ∧ s.endOverlay.pending = s.pending := by
  simp only [endOverlay]
  (repeat' split) <;> simp

@[simp] theorem putRecord_frame (n : QueueName) (u : Bool) (r : CaptureRecord) :
    (s.putRecord n u r).port = s.port ∧ (s.putRecord n u r).control = s.control ∧
    (s.putRecord n u r).rule = s.rule ∧ (s.putRecord n u r).staging = s.staging ∧ (s.putRecord n u r).seq = s.seq ∧
    (s.putRecord n u r).power = s.power ∧ (s.putRecord n u r).time = s.time ∧ (s.putRecord n u r).fuses = s.fuses ∧
    (s.putRecord n u r).profile = s.profile ∧ (s.putRecord n u r).powered = s.powered ∧
    (s.putRecord n u r).resetHeld = s.resetHeld ∧ (s.putRecord n u r).answers = s.answers ∧
    (s.putRecord n u r).link = s.link ∧ (s.putRecord n u r).draws = s.draws ∧
    (s.putRecord n u r).pending = s.pending := by
  simp [putRecord]

@[simp] theorem release_frame (n : QueueName) :
    (s.release n).port = s.port ∧ (s.release n).control = s.control ∧ (s.release n).rule = s.rule ∧
    (s.release n).staging = s.staging ∧ (s.release n).seq = s.seq ∧ (s.release n).power = s.power ∧
    (s.release n).time = s.time ∧ (s.release n).events = s.events ∧ (s.release n).fuses = s.fuses ∧
    (s.release n).profile = s.profile ∧ (s.release n).powered = s.powered ∧ (s.release n).resetHeld = s.resetHeld ∧
    (s.release n).answers = s.answers ∧ (s.release n).link = s.link ∧ (s.release n).draws = s.draws ∧
    (s.release n).pending = s.pending := by
  simp [release]

@[simp] theorem reserve_frame (n : QueueName) :
    (s.reserve n).port = s.port ∧ (s.reserve n).control = s.control ∧ (s.reserve n).rule = s.rule ∧
    (s.reserve n).staging = s.staging ∧ (s.reserve n).seq = s.seq ∧ (s.reserve n).power = s.power ∧
    (s.reserve n).time = s.time ∧ (s.reserve n).events = s.events ∧ (s.reserve n).fuses = s.fuses ∧
    (s.reserve n).profile = s.profile ∧ (s.reserve n).powered = s.powered ∧ (s.reserve n).resetHeld = s.resetHeld ∧
    (s.reserve n).answers = s.answers ∧ (s.reserve n).link = s.link ∧ (s.reserve n).draws = s.draws ∧
    (s.reserve n).pending = s.pending := by
  simp [reserve]

@[simp] theorem latchCopy_frame (n : Nat) (r : LatchRecord) :
    (s.latchCopy n r).port = s.port ∧ (s.latchCopy n r).control = s.control ∧ (s.latchCopy n r).rule = s.rule ∧
    (s.latchCopy n r).staging = s.staging ∧ (s.latchCopy n r).seq = s.seq ∧ (s.latchCopy n r).power = s.power ∧
    (s.latchCopy n r).time = s.time ∧ (s.latchCopy n r).fuses = s.fuses ∧ (s.latchCopy n r).profile = s.profile ∧
    (s.latchCopy n r).powered = s.powered ∧ (s.latchCopy n r).resetHeld = s.resetHeld ∧
    (s.latchCopy n r).answers = s.answers ∧ (s.latchCopy n r).link = s.link ∧ (s.latchCopy n r).draws = s.draws ∧
    (s.latchCopy n r).pending = s.pending := by
  simp [latchCopy]

@[simp] theorem expireStale_frame (n : QueueName) :
    (s.expireStale n).port = s.port ∧ (s.expireStale n).control = s.control ∧ (s.expireStale n).rule = s.rule ∧
    (s.expireStale n).staging = s.staging ∧ (s.expireStale n).seq = s.seq ∧ (s.expireStale n).power = s.power ∧
    (s.expireStale n).time = s.time ∧ (s.expireStale n).fuses = s.fuses ∧ (s.expireStale n).profile = s.profile ∧
    (s.expireStale n).powered = s.powered ∧ (s.expireStale n).resetHeld = s.resetHeld ∧
    (s.expireStale n).answers = s.answers ∧ (s.expireStale n).link = s.link ∧ (s.expireStale n).draws = s.draws ∧
    (s.expireStale n).pending = s.pending := by
  simp [expireStale]

@[simp] theorem noteUrgent_frame (d : Decision) :
    (s.noteUrgent d).port = s.port ∧ (s.noteUrgent d).control = s.control ∧ (s.noteUrgent d).capture = s.capture ∧
    (s.noteUrgent d).staging = s.staging ∧ (s.noteUrgent d).seq = s.seq ∧ (s.noteUrgent d).power = s.power ∧
    (s.noteUrgent d).time = s.time ∧ (s.noteUrgent d).fuses = s.fuses ∧ (s.noteUrgent d).profile = s.profile ∧
    (s.noteUrgent d).powered = s.powered ∧ (s.noteUrgent d).resetHeld = s.resetHeld ∧
    (s.noteUrgent d).answers = s.answers ∧ (s.noteUrgent d).link = s.link ∧ (s.noteUrgent d).draws = s.draws ∧
    (s.noteUrgent d).pending = s.pending := by
  simp only [noteUrgent]
  (repeat' split) <;> simp

@[simp] theorem recordRefusal_frame (x : RefusalReason) (a : Access) (l : Addr) (d : Option Decision) :
    (s.recordRefusal x a l d).control = s.control ∧ (s.recordRefusal x a l d).rule = s.rule ∧
    (s.recordRefusal x a l d).capture = s.capture ∧ (s.recordRefusal x a l d).staging = s.staging ∧
    (s.recordRefusal x a l d).seq = s.seq ∧ (s.recordRefusal x a l d).power = s.power ∧
    (s.recordRefusal x a l d).time = s.time ∧ (s.recordRefusal x a l d).fuses = s.fuses ∧
    (s.recordRefusal x a l d).profile = s.profile ∧ (s.recordRefusal x a l d).powered = s.powered ∧
    (s.recordRefusal x a l d).resetHeld = s.resetHeld ∧ (s.recordRefusal x a l d).answers = s.answers ∧
    (s.recordRefusal x a l d).link = s.link ∧ (s.recordRefusal x a l d).draws = s.draws ∧
    (s.recordRefusal x a l d).pending = s.pending := by
  simp [recordRefusal]

@[simp] theorem captureRead_frame (r : Read) (o : CaptureOutcome) :
    (s.captureRead r o).port = s.port ∧ (s.captureRead r o).control = s.control ∧
    (s.captureRead r o).rule = s.rule ∧ (s.captureRead r o).staging = s.staging ∧ (s.captureRead r o).seq = s.seq ∧
    (s.captureRead r o).power = s.power ∧ (s.captureRead r o).time = s.time ∧ (s.captureRead r o).fuses = s.fuses ∧
    (s.captureRead r o).profile = s.profile ∧ (s.captureRead r o).powered = s.powered ∧
    (s.captureRead r o).resetHeld = s.resetHeld ∧ (s.captureRead r o).answers = s.answers ∧
    (s.captureRead r o).link = s.link ∧ (s.captureRead r o).draws = s.draws ∧
    (s.captureRead r o).pending = s.pending := by
  simp only [captureRead]
  (repeat' split) <;> simp

@[simp] theorem answerRead_frame (r : Read) (x : ReadResult) :
    (s.answerRead r x).control = s.control ∧ (s.answerRead r x).rule = s.rule ∧
    (s.answerRead r x).staging = s.staging ∧ (s.answerRead r x).seq = s.seq ∧ (s.answerRead r x).power = s.power ∧
    (s.answerRead r x).time = s.time ∧ (s.answerRead r x).fuses = s.fuses ∧ (s.answerRead r x).profile = s.profile ∧
    (s.answerRead r x).powered = s.powered ∧ (s.answerRead r x).resetHeld = s.resetHeld ∧
    (s.answerRead r x).link = s.link ∧ (s.answerRead r x).draws = s.draws ∧
    (s.answerRead r x).pending = s.pending := by
  simp only [answerRead]
  (repeat' split) <;> simp

@[simp] theorem answerOldest_frame :
    s.answerOldest.control = s.control ∧ s.answerOldest.rule = s.rule ∧ s.answerOldest.staging = s.staging ∧
    s.answerOldest.seq = s.seq ∧ s.answerOldest.power = s.power ∧ s.answerOldest.time = s.time ∧
    s.answerOldest.fuses = s.fuses ∧ s.answerOldest.profile = s.profile ∧ s.answerOldest.powered = s.powered ∧
    s.answerOldest.resetHeld = s.resetHeld ∧ s.answerOldest.link = s.link ∧ s.answerOldest.draws = s.draws ∧
    s.answerOldest.pending = s.pending := by
  simp only [answerOldest]
  (repeat' split) <;> simp

@[simp] theorem pushRead_frame (r : Read) :
    (s.pushRead r).control = s.control ∧ (s.pushRead r).rule = s.rule ∧ (s.pushRead r).capture = s.capture ∧
    (s.pushRead r).staging = s.staging ∧ (s.pushRead r).seq = s.seq ∧ (s.pushRead r).power = s.power ∧
    (s.pushRead r).time = s.time ∧ (s.pushRead r).events = s.events ∧ (s.pushRead r).fuses = s.fuses ∧
    (s.pushRead r).profile = s.profile ∧ (s.pushRead r).powered = s.powered ∧
    (s.pushRead r).resetHeld = s.resetHeld ∧ (s.pushRead r).answers = s.answers ∧ (s.pushRead r).link = s.link ∧
    (s.pushRead r).draws = s.draws ∧ (s.pushRead r).pending = s.pending := by
  simp [pushRead]

@[simp] theorem decideRead_frame (t : Nat) (r : ReadReq) :
    (s.decideRead t r).control = s.control ∧ (s.decideRead t r).capture = s.capture ∧
    (s.decideRead t r).time = s.time ∧ (s.decideRead t r).fuses = s.fuses ∧ (s.decideRead t r).profile = s.profile ∧
    (s.decideRead t r).powered = s.powered ∧ (s.decideRead t r).resetHeld = s.resetHeld ∧
    (s.decideRead t r).answers = s.answers ∧ (s.decideRead t r).draws = s.draws ∧
    (s.decideRead t r).pending = s.pending := by
  simp only [decideRead]
  repeat' split
  all_goals simp

@[simp] theorem acceptRead_frame (r : ReadReq) :
    (s.acceptRead r).control = s.control ∧ (s.acceptRead r).capture = s.capture ∧ (s.acceptRead r).time = s.time ∧
    (s.acceptRead r).fuses = s.fuses ∧ (s.acceptRead r).profile = s.profile ∧ (s.acceptRead r).powered = s.powered ∧
    (s.acceptRead r).resetHeld = s.resetHeld ∧ (s.acceptRead r).answers = s.answers ∧
    (s.acceptRead r).draws = s.draws ∧ (s.acceptRead r).pending = s.pending := by
  simp only [acceptRead]
  (repeat' split) <;> simp

@[simp] theorem acceptNextRead_frame :
    s.acceptNextRead.control = s.control ∧ s.acceptNextRead.capture = s.capture ∧ s.acceptNextRead.time = s.time ∧
    s.acceptNextRead.fuses = s.fuses ∧ s.acceptNextRead.profile = s.profile ∧ s.acceptNextRead.powered = s.powered ∧
    s.acceptNextRead.resetHeld = s.resetHeld ∧ s.acceptNextRead.answers = s.answers ∧
    s.acceptNextRead.draws = s.draws ∧ s.acceptNextRead.pending = s.pending := by
  simp only [acceptNextRead]
  (repeat' split) <;> simp

@[simp] theorem answerInTurn_frame :
    s.answerInTurn.control = s.control ∧ s.answerInTurn.time = s.time ∧ s.answerInTurn.fuses = s.fuses ∧
    s.answerInTurn.profile = s.profile ∧ s.answerInTurn.powered = s.powered ∧ s.answerInTurn.resetHeld = s.resetHeld ∧
    s.answerInTurn.draws = s.draws ∧ s.answerInTurn.pending = s.pending := by
  simp only [answerInTurn]
  split <;> simp

@[simp] theorem presentRead_frame (l : Addr) (o n : Nat) :
    (s.presentRead l o n).control = s.control ∧ (s.presentRead l o n).rule = s.rule ∧
    (s.presentRead l o n).capture = s.capture ∧ (s.presentRead l o n).staging = s.staging ∧
    (s.presentRead l o n).seq = s.seq ∧ (s.presentRead l o n).power = s.power ∧
    (s.presentRead l o n).time = s.time ∧ (s.presentRead l o n).events = s.events ∧
    (s.presentRead l o n).fuses = s.fuses ∧ (s.presentRead l o n).profile = s.profile ∧
    (s.presentRead l o n).powered = s.powered ∧ (s.presentRead l o n).resetHeld = s.resetHeld ∧
    (s.presentRead l o n).answers = s.answers ∧ (s.presentRead l o n).link = s.link ∧
    (s.presentRead l o n).draws = s.draws ∧ (s.presentRead l o n).pending = s.pending := by
  simp [presentRead]

@[simp] theorem releaseHazards_frame :
    s.releaseHazards.control = s.control ∧ s.releaseHazards.rule = s.rule ∧ s.releaseHazards.capture = s.capture ∧
    s.releaseHazards.time = s.time ∧ s.releaseHazards.events = s.events ∧ s.releaseHazards.fuses = s.fuses ∧
    s.releaseHazards.profile = s.profile ∧ s.releaseHazards.powered = s.powered ∧
    s.releaseHazards.resetHeld = s.resetHeld ∧ s.releaseHazards.answers = s.answers ∧
    s.releaseHazards.draws = s.draws ∧ s.releaseHazards.pending = s.pending := by
  unfold releaseHazards
  refine ⟨?_, ?_, ?_, ?_, ?_, ?_, ?_, ?_, ?_, ?_, ?_, ?_⟩
  all_goals exact foldl_keeps _ (fun x => _) (fun x a => by simp) _ _

@[simp] theorem serveFilled_frame (i : Nat) (d : Sector) :
    (s.serveFilled i d).control = s.control ∧ (s.serveFilled i d).rule = s.rule ∧
    (s.serveFilled i d).capture = s.capture ∧ (s.serveFilled i d).seq = s.seq ∧
    (s.serveFilled i d).power = s.power ∧ (s.serveFilled i d).time = s.time ∧
    (s.serveFilled i d).events = s.events ∧ (s.serveFilled i d).fuses = s.fuses ∧
    (s.serveFilled i d).profile = s.profile ∧ (s.serveFilled i d).powered = s.powered ∧
    (s.serveFilled i d).resetHeld = s.resetHeld ∧ (s.serveFilled i d).answers = s.answers ∧
    (s.serveFilled i d).link = s.link ∧ (s.serveFilled i d).draws = s.draws ∧
    (s.serveFilled i d).pending = s.pending := by
  unfold serveFilled
  refine ⟨?_, ?_, ?_, ?_, ?_, ?_, ?_, ?_, ?_, ?_, ?_, ?_, ?_, ?_, ?_⟩
  all_goals exact foldl_keeps _ (fun x => _) (fun x a => by simp) _ _

@[simp] theorem refuseReads_frame (l : List Nat) (x : RefusalReason) :
    (s.refuseReads l x).control = s.control ∧ (s.refuseReads l x).rule = s.rule ∧
    (s.refuseReads l x).capture = s.capture ∧ (s.refuseReads l x).staging = s.staging ∧
    (s.refuseReads l x).seq = s.seq ∧ (s.refuseReads l x).power = s.power ∧ (s.refuseReads l x).time = s.time ∧
    (s.refuseReads l x).events = s.events ∧ (s.refuseReads l x).fuses = s.fuses ∧
    (s.refuseReads l x).profile = s.profile ∧ (s.refuseReads l x).powered = s.powered ∧
    (s.refuseReads l x).resetHeld = s.resetHeld ∧ (s.refuseReads l x).answers = s.answers ∧
    (s.refuseReads l x).link = s.link ∧ (s.refuseReads l x).draws = s.draws ∧
    (s.refuseReads l x).pending = s.pending := by
  unfold refuseReads
  refine ⟨?_, ?_, ?_, ?_, ?_, ?_, ?_, ?_, ?_, ?_, ?_, ?_, ?_, ?_, ?_, ?_⟩
  all_goals exact foldl_keeps _ (fun x => _) (fun x a => by simp) _ _

@[simp] theorem refuseMisses_frame (x : RefusalReason) :
    (s.refuseMisses x).control = s.control ∧ (s.refuseMisses x).rule = s.rule ∧
    (s.refuseMisses x).capture = s.capture ∧ (s.refuseMisses x).staging = s.staging ∧
    (s.refuseMisses x).power = s.power ∧ (s.refuseMisses x).time = s.time ∧ (s.refuseMisses x).events = s.events ∧
    (s.refuseMisses x).fuses = s.fuses ∧ (s.refuseMisses x).profile = s.profile ∧
    (s.refuseMisses x).powered = s.powered ∧ (s.refuseMisses x).resetHeld = s.resetHeld ∧
    (s.refuseMisses x).answers = s.answers ∧ (s.refuseMisses x).link = s.link ∧ (s.refuseMisses x).draws = s.draws ∧
    (s.refuseMisses x).pending = s.pending := by
  simp [refuseMisses]

@[simp] theorem captureWrite_frame (w : WriteInProgress) (u : Bool) (o : CaptureOutcome) (b : List Byte) :
    (s.captureWrite w u o b).port = s.port ∧ (s.captureWrite w u o b).control = s.control ∧
    (s.captureWrite w u o b).rule = s.rule ∧ (s.captureWrite w u o b).staging = s.staging ∧
    (s.captureWrite w u o b).seq = s.seq ∧ (s.captureWrite w u o b).power = s.power ∧
    (s.captureWrite w u o b).time = s.time ∧ (s.captureWrite w u o b).fuses = s.fuses ∧
    (s.captureWrite w u o b).profile = s.profile ∧ (s.captureWrite w u o b).powered = s.powered ∧
    (s.captureWrite w u o b).resetHeld = s.resetHeld ∧ (s.captureWrite w u o b).answers = s.answers ∧
    (s.captureWrite w u o b).link = s.link ∧ (s.captureWrite w u o b).draws = s.draws ∧
    (s.captureWrite w u o b).pending = s.pending := by
  simp only [captureWrite]
  (repeat' split) <;> simp

@[simp] theorem latchWrite_frame (w : WriteInProgress) (b : List Byte) :
    (s.latchWrite w b).port = s.port ∧ (s.latchWrite w b).control = s.control ∧ (s.latchWrite w b).rule = s.rule ∧
    (s.latchWrite w b).staging = s.staging ∧ (s.latchWrite w b).seq = s.seq ∧ (s.latchWrite w b).power = s.power ∧
    (s.latchWrite w b).time = s.time ∧ (s.latchWrite w b).fuses = s.fuses ∧ (s.latchWrite w b).profile = s.profile ∧
    (s.latchWrite w b).powered = s.powered ∧ (s.latchWrite w b).resetHeld = s.resetHeld ∧
    (s.latchWrite w b).answers = s.answers ∧ (s.latchWrite w b).link = s.link ∧ (s.latchWrite w b).draws = s.draws ∧
    (s.latchWrite w b).pending = s.pending := by
  simp only [latchWrite]
  (repeat' split) <;> simp

@[simp] theorem updateResults_frame (w : WriteReq) :
    (s.updateResults w).control = s.control ∧ (s.updateResults w).rule = s.rule ∧
    (s.updateResults w).capture = s.capture ∧ (s.updateResults w).staging = s.staging ∧
    (s.updateResults w).seq = s.seq ∧ (s.updateResults w).power = s.power ∧ (s.updateResults w).time = s.time ∧
    (s.updateResults w).events = s.events ∧ (s.updateResults w).fuses = s.fuses ∧
    (s.updateResults w).profile = s.profile ∧ (s.updateResults w).powered = s.powered ∧
    (s.updateResults w).resetHeld = s.resetHeld ∧ (s.updateResults w).answers = s.answers ∧
    (s.updateResults w).link = s.link ∧ (s.updateResults w).draws = s.draws ∧
    (s.updateResults w).pending = s.pending := by
  simp [updateResults]

@[simp] theorem overlayWritten_frame (l : Addr) :
    (s.overlayWritten l).rule = s.rule ∧ (s.overlayWritten l).capture = s.capture ∧
    (s.overlayWritten l).time = s.time ∧ (s.overlayWritten l).events = s.events ∧
    (s.overlayWritten l).fuses = s.fuses ∧ (s.overlayWritten l).profile = s.profile ∧
    (s.overlayWritten l).powered = s.powered ∧ (s.overlayWritten l).resetHeld = s.resetHeld ∧
    (s.overlayWritten l).answers = s.answers ∧ (s.overlayWritten l).draws = s.draws ∧
    (s.overlayWritten l).pending = s.pending := by
  simp only [overlayWritten]
  (repeat' split) <;> simp

@[simp] theorem answerWrite_frame (w : WriteInProgress) (i : Image) :
    (s.answerWrite w i).rule = s.rule ∧ (s.answerWrite w i).time = s.time ∧ (s.answerWrite w i).fuses = s.fuses ∧
    (s.answerWrite w i).profile = s.profile ∧ (s.answerWrite w i).powered = s.powered ∧
    (s.answerWrite w i).resetHeld = s.resetHeld ∧ (s.answerWrite w i).draws = s.draws ∧
    (s.answerWrite w i).pending = s.pending := by
  simp [answerWrite]

@[simp] theorem releaseFor_frame (d : Option Decision) :
    (s.releaseFor d).port = s.port ∧ (s.releaseFor d).control = s.control ∧ (s.releaseFor d).rule = s.rule ∧
    (s.releaseFor d).staging = s.staging ∧ (s.releaseFor d).seq = s.seq ∧ (s.releaseFor d).power = s.power ∧
    (s.releaseFor d).time = s.time ∧ (s.releaseFor d).events = s.events ∧ (s.releaseFor d).fuses = s.fuses ∧
    (s.releaseFor d).profile = s.profile ∧ (s.releaseFor d).powered = s.powered ∧
    (s.releaseFor d).resetHeld = s.resetHeld ∧ (s.releaseFor d).answers = s.answers ∧
    (s.releaseFor d).link = s.link ∧ (s.releaseFor d).draws = s.draws ∧ (s.releaseFor d).pending = s.pending := by
  simp only [releaseFor]
  (repeat' split) <;> simp

@[simp] theorem refuseWrite_frame (w : WriteInProgress) (x : RefusalReason) :
    (s.refuseWrite w x).control = s.control ∧ (s.refuseWrite w x).rule = s.rule ∧
    (s.refuseWrite w x).staging = s.staging ∧ (s.refuseWrite w x).seq = s.seq ∧
    (s.refuseWrite w x).power = s.power ∧ (s.refuseWrite w x).time = s.time ∧ (s.refuseWrite w x).fuses = s.fuses ∧
    (s.refuseWrite w x).profile = s.profile ∧ (s.refuseWrite w x).powered = s.powered ∧
    (s.refuseWrite w x).resetHeld = s.resetHeld ∧ (s.refuseWrite w x).link = s.link ∧
    (s.refuseWrite w x).draws = s.draws ∧ (s.refuseWrite w x).pending = s.pending := by
  simp [refuseWrite]

@[simp] theorem holdWrite_frame (w : WriteInProgress) (c : HoldCause) :
    (s.holdWrite w c).control = s.control ∧ (s.holdWrite w c).rule = s.rule ∧
    (s.holdWrite w c).capture = s.capture ∧ (s.holdWrite w c).staging = s.staging ∧ (s.holdWrite w c).seq = s.seq ∧
    (s.holdWrite w c).power = s.power ∧ (s.holdWrite w c).time = s.time ∧ (s.holdWrite w c).events = s.events ∧
    (s.holdWrite w c).fuses = s.fuses ∧ (s.holdWrite w c).profile = s.profile ∧
    (s.holdWrite w c).powered = s.powered ∧ (s.holdWrite w c).resetHeld = s.resetHeld ∧
    (s.holdWrite w c).answers = s.answers ∧ (s.holdWrite w c).link = s.link ∧ (s.holdWrite w c).draws = s.draws ∧
    (s.holdWrite w c).pending = s.pending := by
  simp [holdWrite]

@[simp] theorem closeMerged_frame (i : Nat) :
    (s.closeMerged i).port = s.port ∧ (s.closeMerged i).control = s.control ∧ (s.closeMerged i).rule = s.rule ∧
    (s.closeMerged i).capture = s.capture ∧ (s.closeMerged i).seq = s.seq ∧ (s.closeMerged i).power = s.power ∧
    (s.closeMerged i).time = s.time ∧ (s.closeMerged i).events = s.events ∧ (s.closeMerged i).fuses = s.fuses ∧
    (s.closeMerged i).profile = s.profile ∧ (s.closeMerged i).powered = s.powered ∧
    (s.closeMerged i).resetHeld = s.resetHeld ∧ (s.closeMerged i).answers = s.answers ∧
    (s.closeMerged i).link = s.link ∧ (s.closeMerged i).draws = s.draws ∧ (s.closeMerged i).pending = s.pending := by
  simp only [closeMerged]
  (repeat' split) <;> simp

@[simp] theorem landWrite_frame (w : WriteInProgress) (i : Nat) (e : Entry) :
    (s.landWrite w i e).rule = s.rule ∧ (s.landWrite w i e).time = s.time ∧ (s.landWrite w i e).fuses = s.fuses ∧
    (s.landWrite w i e).profile = s.profile ∧ (s.landWrite w i e).powered = s.powered ∧
    (s.landWrite w i e).resetHeld = s.resetHeld ∧ (s.landWrite w i e).draws = s.draws ∧
    (s.landWrite w i e).pending = s.pending := by
  simp [landWrite]

@[simp] theorem allocateWrite_frame (w : WriteInProgress) (i : Nat) :
    (s.allocateWrite w i).rule = s.rule ∧ (s.allocateWrite w i).time = s.time ∧
    (s.allocateWrite w i).fuses = s.fuses ∧ (s.allocateWrite w i).profile = s.profile ∧
    (s.allocateWrite w i).powered = s.powered ∧ (s.allocateWrite w i).resetHeld = s.resetHeld ∧
    (s.allocateWrite w i).draws = s.draws ∧ (s.allocateWrite w i).pending = s.pending := by
  simp [allocateWrite]

@[simp] theorem holdNoEntry_frame (w : WriteInProgress) :
    (s.holdNoEntry w).control = s.control ∧ (s.holdNoEntry w).rule = s.rule ∧
    (s.holdNoEntry w).capture = s.capture ∧ (s.holdNoEntry w).seq = s.seq ∧ (s.holdNoEntry w).power = s.power ∧
    (s.holdNoEntry w).time = s.time ∧ (s.holdNoEntry w).events = s.events ∧ (s.holdNoEntry w).fuses = s.fuses ∧
    (s.holdNoEntry w).profile = s.profile ∧ (s.holdNoEntry w).powered = s.powered ∧
    (s.holdNoEntry w).resetHeld = s.resetHeld ∧ (s.holdNoEntry w).answers = s.answers ∧
    (s.holdNoEntry w).link = s.link ∧ (s.holdNoEntry w).draws = s.draws ∧ (s.holdNoEntry w).pending = s.pending := by
  simp only [holdNoEntry]
  (repeat' split) <;> simp

@[simp] theorem stageWrite_frame (w : WriteInProgress) :
    (s.stageWrite w).rule = s.rule ∧ (s.stageWrite w).time = s.time ∧ (s.stageWrite w).fuses = s.fuses ∧
    (s.stageWrite w).profile = s.profile ∧ (s.stageWrite w).powered = s.powered ∧
    (s.stageWrite w).resetHeld = s.resetHeld ∧ (s.stageWrite w).draws = s.draws ∧
    (s.stageWrite w).pending = s.pending := by
  simp only [stageWrite]
  (repeat' split) <;> simp

@[simp] theorem reserveStage_frame (w : WriteInProgress) :
    (s.reserveStage w).rule = s.rule ∧ (s.reserveStage w).time = s.time ∧ (s.reserveStage w).fuses = s.fuses ∧
    (s.reserveStage w).profile = s.profile ∧ (s.reserveStage w).powered = s.powered ∧
    (s.reserveStage w).resetHeld = s.resetHeld ∧ (s.reserveStage w).draws = s.draws ∧
    (s.reserveStage w).pending = s.pending := by
  simp only [reserveStage]
  (repeat' split) <;> simp

@[simp] theorem fenceStage_frame (w : WriteInProgress) :
    (s.fenceStage w).time = s.time ∧ (s.fenceStage w).fuses = s.fuses ∧ (s.fenceStage w).profile = s.profile ∧
    (s.fenceStage w).powered = s.powered ∧ (s.fenceStage w).resetHeld = s.resetHeld ∧
    (s.fenceStage w).draws = s.draws ∧ (s.fenceStage w).pending = s.pending := by
  simp only [fenceStage]
  repeat' split
  all_goals simp

@[simp] theorem withdrawSleep_frame :
    s.withdrawSleep.port = s.port ∧ s.withdrawSleep.control = s.control ∧ s.withdrawSleep.rule = s.rule ∧
    s.withdrawSleep.capture = s.capture ∧ s.withdrawSleep.staging = s.staging ∧ s.withdrawSleep.power = s.power ∧
    s.withdrawSleep.time = s.time ∧ s.withdrawSleep.events = s.events ∧ s.withdrawSleep.fuses = s.fuses ∧
    s.withdrawSleep.profile = s.profile ∧ s.withdrawSleep.powered = s.powered ∧
    s.withdrawSleep.resetHeld = s.resetHeld ∧ s.withdrawSleep.answers = s.answers ∧ s.withdrawSleep.link = s.link ∧
    s.withdrawSleep.draws = s.draws ∧ s.withdrawSleep.pending = s.pending := by
  simp only [withdrawSleep]
  (repeat' split) <;> simp

@[simp] theorem abandonDrain_frame (r : DrainReason) :
    (s.abandonDrain r).port = s.port ∧ (s.abandonDrain r).control = s.control ∧ (s.abandonDrain r).rule = s.rule ∧
    (s.abandonDrain r).capture = s.capture ∧ (s.abandonDrain r).staging = s.staging ∧
    (s.abandonDrain r).time = s.time ∧ (s.abandonDrain r).fuses = s.fuses ∧ (s.abandonDrain r).profile = s.profile ∧
    (s.abandonDrain r).powered = s.powered ∧ (s.abandonDrain r).resetHeld = s.resetHeld ∧
    (s.abandonDrain r).answers = s.answers ∧ (s.abandonDrain r).link = s.link ∧ (s.abandonDrain r).draws = s.draws ∧
    (s.abandonDrain r).pending = s.pending := by
  simp [abandonDrain]

@[simp] theorem powerStage_frame (w : WriteInProgress) :
    (s.powerStage w).time = s.time ∧ (s.powerStage w).fuses = s.fuses ∧ (s.powerStage w).profile = s.profile ∧
    (s.powerStage w).powered = s.powered ∧ (s.powerStage w).resetHeld = s.resetHeld ∧
    (s.powerStage w).draws = s.draws ∧ (s.powerStage w).pending = s.pending := by
  simp only [powerStage]
  (repeat' split) <;> simp

@[simp] theorem releaseWrite_frame :
    s.releaseWrite.time = s.time ∧ s.releaseWrite.fuses = s.fuses ∧ s.releaseWrite.profile = s.profile ∧
    s.releaseWrite.powered = s.powered ∧ s.releaseWrite.resetHeld = s.resetHeld ∧ s.releaseWrite.draws = s.draws ∧
    s.releaseWrite.pending = s.pending := by
  simp only [releaseWrite]
  (repeat' split) <;> simp

@[simp] theorem countRetry_frame :
    s.countRetry.port = s.port ∧ s.countRetry.control = s.control ∧ s.countRetry.rule = s.rule ∧
    s.countRetry.capture = s.capture ∧ s.countRetry.seq = s.seq ∧ s.countRetry.power = s.power ∧
    s.countRetry.time = s.time ∧ s.countRetry.fuses = s.fuses ∧ s.countRetry.profile = s.profile ∧
    s.countRetry.powered = s.powered ∧ s.countRetry.resetHeld = s.resetHeld ∧ s.countRetry.answers = s.answers ∧
    s.countRetry.link = s.link ∧ s.countRetry.draws = s.draws ∧ s.countRetry.pending = s.pending := by
  simp only [countRetry]
  (repeat' split) <;> simp

@[simp] theorem faultCommit_frame (i : Nat) (d : Sector) (k : FaultKind) (p : Option Nat) :
    (s.faultCommit i d k p).port = s.port ∧ (s.faultCommit i d k p).control = s.control ∧
    (s.faultCommit i d k p).rule = s.rule ∧ (s.faultCommit i d k p).capture = s.capture ∧
    (s.faultCommit i d k p).seq = s.seq ∧ (s.faultCommit i d k p).power = s.power ∧
    (s.faultCommit i d k p).time = s.time ∧ (s.faultCommit i d k p).fuses = s.fuses ∧
    (s.faultCommit i d k p).profile = s.profile ∧ (s.faultCommit i d k p).powered = s.powered ∧
    (s.faultCommit i d k p).resetHeld = s.resetHeld ∧ (s.faultCommit i d k p).answers = s.answers ∧
    (s.faultCommit i d k p).link = s.link ∧ (s.faultCommit i d k p).draws = s.draws ∧
    (s.faultCommit i d k p).pending = s.pending := by
  simp [faultCommit]

@[simp] theorem retryStep_frame (i : Nat) (d : Sector) (c : CloseCause) (p : Progress) (x : CommitStep) :
    (s.retryStep i d c p x).port = s.port ∧ (s.retryStep i d c p x).control = s.control ∧
    (s.retryStep i d c p x).rule = s.rule ∧ (s.retryStep i d c p x).capture = s.capture ∧
    (s.retryStep i d c p x).seq = s.seq ∧ (s.retryStep i d c p x).power = s.power ∧
    (s.retryStep i d c p x).time = s.time ∧ (s.retryStep i d c p x).fuses = s.fuses ∧
    (s.retryStep i d c p x).profile = s.profile ∧ (s.retryStep i d c p x).powered = s.powered ∧
    (s.retryStep i d c p x).resetHeld = s.resetHeld ∧ (s.retryStep i d c p x).answers = s.answers ∧
    (s.retryStep i d c p x).link = s.link ∧ (s.retryStep i d c p x).draws = s.draws ∧
    (s.retryStep i d c p x).pending = s.pending := by
  simp [retryStep]

@[simp] theorem stepReported_frame (o : OpStep) (f : Bool) :
    (s.stepReported o f).port = s.port ∧ (s.stepReported o f).control = s.control ∧
    (s.stepReported o f).rule = s.rule ∧ (s.stepReported o f).capture = s.capture ∧
    (s.stepReported o f).seq = s.seq ∧ (s.stepReported o f).power = s.power ∧ (s.stepReported o f).time = s.time ∧
    (s.stepReported o f).fuses = s.fuses ∧ (s.stepReported o f).profile = s.profile ∧
    (s.stepReported o f).powered = s.powered ∧ (s.stepReported o f).resetHeld = s.resetHeld ∧
    (s.stepReported o f).answers = s.answers ∧ (s.stepReported o f).link = s.link ∧
    (s.stepReported o f).draws = s.draws ∧ (s.stepReported o f).pending = s.pending := by
  simp only [stepReported]
  (repeat' split) <;> simp

@[simp] theorem verifyReported_frame (p : Nat) (b : List Byte) :
    (s.verifyReported p b).port = s.port ∧ (s.verifyReported p b).control = s.control ∧
    (s.verifyReported p b).rule = s.rule ∧ (s.verifyReported p b).capture = s.capture ∧
    (s.verifyReported p b).seq = s.seq ∧ (s.verifyReported p b).power = s.power ∧
    (s.verifyReported p b).time = s.time ∧ (s.verifyReported p b).fuses = s.fuses ∧
    (s.verifyReported p b).profile = s.profile ∧ (s.verifyReported p b).powered = s.powered ∧
    (s.verifyReported p b).resetHeld = s.resetHeld ∧ (s.verifyReported p b).answers = s.answers ∧
    (s.verifyReported p b).link = s.link ∧ (s.verifyReported p b).draws = s.draws ∧
    (s.verifyReported p b).pending = s.pending := by
  simp only [verifyReported]
  (repeat' split) <;> simp

@[simp] theorem timeoutReported_frame (o : OpStep) :
    (s.timeoutReported o).port = s.port ∧ (s.timeoutReported o).control = s.control ∧
    (s.timeoutReported o).rule = s.rule ∧ (s.timeoutReported o).capture = s.capture ∧
    (s.timeoutReported o).seq = s.seq ∧ (s.timeoutReported o).power = s.power ∧
    (s.timeoutReported o).time = s.time ∧ (s.timeoutReported o).fuses = s.fuses ∧
    (s.timeoutReported o).profile = s.profile ∧ (s.timeoutReported o).powered = s.powered ∧
    (s.timeoutReported o).resetHeld = s.resetHeld ∧ (s.timeoutReported o).answers = s.answers ∧
    (s.timeoutReported o).link = s.link ∧ (s.timeoutReported o).draws = s.draws ∧
    (s.timeoutReported o).pending = s.pending := by
  simp only [timeoutReported]
  (repeat' split) <;> simp

@[simp] theorem completeFill_frame (i : Nat) :
    (s.completeFill i).control = s.control ∧ (s.completeFill i).rule = s.rule ∧
    (s.completeFill i).capture = s.capture ∧ (s.completeFill i).seq = s.seq ∧ (s.completeFill i).power = s.power ∧
    (s.completeFill i).time = s.time ∧ (s.completeFill i).events = s.events ∧ (s.completeFill i).fuses = s.fuses ∧
    (s.completeFill i).profile = s.profile ∧ (s.completeFill i).powered = s.powered ∧
    (s.completeFill i).resetHeld = s.resetHeld ∧ (s.completeFill i).answers = s.answers ∧
    (s.completeFill i).link = s.link ∧ (s.completeFill i).draws = s.draws ∧
    (s.completeFill i).pending = s.pending := by
  simp only [completeFill]
  (repeat' split) <;> simp

@[simp] theorem fillReported_frame (n p : Nat) (b : List Byte) :
    (s.fillReported n p b).control = s.control ∧ (s.fillReported n p b).rule = s.rule ∧
    (s.fillReported n p b).capture = s.capture ∧ (s.fillReported n p b).seq = s.seq ∧
    (s.fillReported n p b).power = s.power ∧ (s.fillReported n p b).time = s.time ∧
    (s.fillReported n p b).events = s.events ∧ (s.fillReported n p b).fuses = s.fuses ∧
    (s.fillReported n p b).profile = s.profile ∧ (s.fillReported n p b).powered = s.powered ∧
    (s.fillReported n p b).resetHeld = s.resetHeld ∧ (s.fillReported n p b).answers = s.answers ∧
    (s.fillReported n p b).link = s.link ∧ (s.fillReported n p b).draws = s.draws ∧
    (s.fillReported n p b).pending = s.pending := by
  simp only [fillReported]
  (repeat' split) <;> simp

@[simp] theorem endOperation_frame :
    s.endOperation.port = s.port ∧ s.endOperation.control = s.control ∧ s.endOperation.rule = s.rule ∧
    s.endOperation.capture = s.capture ∧ s.endOperation.staging = s.staging ∧ s.endOperation.power = s.power ∧
    s.endOperation.time = s.time ∧ s.endOperation.events = s.events ∧ s.endOperation.fuses = s.fuses ∧
    s.endOperation.profile = s.profile ∧ s.endOperation.powered = s.powered ∧
    s.endOperation.resetHeld = s.resetHeld ∧ s.endOperation.answers = s.answers ∧ s.endOperation.link = s.link ∧
    s.endOperation.draws = s.draws ∧ s.endOperation.pending = s.pending := by
  simp [endOperation]

@[simp] theorem completeOperation_frame (o : FlashOp) (f : Bool) :
    (s.completeOperation o f).port = s.port ∧ (s.completeOperation o f).control = s.control ∧
    (s.completeOperation o f).rule = s.rule ∧ (s.completeOperation o f).capture = s.capture ∧
    (s.completeOperation o f).power = s.power ∧ (s.completeOperation o f).time = s.time ∧
    (s.completeOperation o f).fuses = s.fuses ∧ (s.completeOperation o f).profile = s.profile ∧
    (s.completeOperation o f).powered = s.powered ∧ (s.completeOperation o f).resetHeld = s.resetHeld ∧
    (s.completeOperation o f).answers = s.answers ∧ (s.completeOperation o f).link = s.link ∧
    (s.completeOperation o f).draws = s.draws ∧ (s.completeOperation o f).pending = s.pending := by
  simp [completeOperation]

@[simp] theorem timeoutOperation_frame (o : FlashOp) :
    (s.timeoutOperation o).control = s.control ∧ (s.timeoutOperation o).rule = s.rule ∧
    (s.timeoutOperation o).capture = s.capture ∧ (s.timeoutOperation o).power = s.power ∧
    (s.timeoutOperation o).time = s.time ∧ (s.timeoutOperation o).fuses = s.fuses ∧
    (s.timeoutOperation o).profile = s.profile ∧ (s.timeoutOperation o).powered = s.powered ∧
    (s.timeoutOperation o).resetHeld = s.resetHeld ∧ (s.timeoutOperation o).answers = s.answers ∧
    (s.timeoutOperation o).link = s.link ∧ (s.timeoutOperation o).draws = s.draws ∧
    (s.timeoutOperation o).pending = s.pending := by
  simp [timeoutOperation]

@[simp] theorem resume_frame (o : FlashOp) :
    (s.resume o).port = s.port ∧ (s.resume o).control = s.control ∧ (s.resume o).rule = s.rule ∧
    (s.resume o).capture = s.capture ∧ (s.resume o).staging = s.staging ∧ (s.resume o).power = s.power ∧
    (s.resume o).time = s.time ∧ (s.resume o).events = s.events ∧ (s.resume o).fuses = s.fuses ∧
    (s.resume o).profile = s.profile ∧ (s.resume o).powered = s.powered ∧ (s.resume o).resetHeld = s.resetHeld ∧
    (s.resume o).answers = s.answers ∧ (s.resume o).draws = s.draws ∧ (s.resume o).pending = s.pending := by
  simp [resume]

@[simp] theorem serveNext_frame (o : FlashOp) (l : List Nat) :
    (s.serveNext o l).port = s.port ∧ (s.serveNext o l).control = s.control ∧ (s.serveNext o l).rule = s.rule ∧
    (s.serveNext o l).capture = s.capture ∧ (s.serveNext o l).staging = s.staging ∧
    (s.serveNext o l).power = s.power ∧ (s.serveNext o l).time = s.time ∧ (s.serveNext o l).events = s.events ∧
    (s.serveNext o l).fuses = s.fuses ∧ (s.serveNext o l).profile = s.profile ∧
    (s.serveNext o l).powered = s.powered ∧ (s.serveNext o l).resetHeld = s.resetHeld ∧
    (s.serveNext o l).answers = s.answers ∧ (s.serveNext o l).draws = s.draws ∧
    (s.serveNext o l).pending = s.pending := by
  cases l <;> simp [serveNext]

@[simp] theorem suspensionDone_frame (o : FlashOp) :
    (s.suspensionDone o).port = s.port ∧ (s.suspensionDone o).control = s.control ∧
    (s.suspensionDone o).rule = s.rule ∧ (s.suspensionDone o).capture = s.capture ∧
    (s.suspensionDone o).staging = s.staging ∧ (s.suspensionDone o).power = s.power ∧
    (s.suspensionDone o).time = s.time ∧ (s.suspensionDone o).events = s.events ∧
    (s.suspensionDone o).fuses = s.fuses ∧ (s.suspensionDone o).profile = s.profile ∧
    (s.suspensionDone o).powered = s.powered ∧ (s.suspensionDone o).resetHeld = s.resetHeld ∧
    (s.suspensionDone o).answers = s.answers ∧ (s.suspensionDone o).draws = s.draws ∧
    (s.suspensionDone o).pending = s.pending := by
  simp [suspensionDone]

@[simp] theorem completeRead_frame (b : List Byte) :
    (s.completeRead b).control = s.control ∧ (s.completeRead b).rule = s.rule ∧
    (s.completeRead b).capture = s.capture ∧ (s.completeRead b).time = s.time ∧ (s.completeRead b).fuses = s.fuses ∧
    (s.completeRead b).profile = s.profile ∧ (s.completeRead b).powered = s.powered ∧
    (s.completeRead b).resetHeld = s.resetHeld ∧ (s.completeRead b).answers = s.answers ∧
    (s.completeRead b).draws = s.draws ∧ (s.completeRead b).pending = s.pending := by
  simp only [completeRead]
  (repeat' split) <;> simp

@[simp] theorem pollStatus_frame (x : Byte) :
    (s.pollStatus x).port = s.port ∧ (s.pollStatus x).control = s.control ∧ (s.pollStatus x).rule = s.rule ∧
    (s.pollStatus x).capture = s.capture ∧ (s.pollStatus x).power = s.power ∧ (s.pollStatus x).time = s.time ∧
    (s.pollStatus x).fuses = s.fuses ∧ (s.pollStatus x).profile = s.profile ∧ (s.pollStatus x).powered = s.powered ∧
    (s.pollStatus x).resetHeld = s.resetHeld ∧ (s.pollStatus x).answers = s.answers ∧
    (s.pollStatus x).draws = s.draws ∧ (s.pollStatus x).pending = s.pending := by
  simp only [pollStatus]
  (repeat' split) <;> simp

@[simp] theorem suspendLimit_frame (x : Byte) :
    (s.suspendLimit x).control = s.control ∧ (s.suspendLimit x).rule = s.rule ∧
    (s.suspendLimit x).capture = s.capture ∧ (s.suspendLimit x).power = s.power ∧ (s.suspendLimit x).time = s.time ∧
    (s.suspendLimit x).fuses = s.fuses ∧ (s.suspendLimit x).profile = s.profile ∧
    (s.suspendLimit x).powered = s.powered ∧ (s.suspendLimit x).resetHeld = s.resetHeld ∧
    (s.suspendLimit x).answers = s.answers ∧ (s.suspendLimit x).draws = s.draws ∧
    (s.suspendLimit x).pending = s.pending := by
  simp only [suspendLimit]
  (repeat' split) <;> simp

@[simp] theorem timeLimit_frame :
    s.timeLimit.control = s.control ∧ s.timeLimit.rule = s.rule ∧ s.timeLimit.capture = s.capture ∧
    s.timeLimit.power = s.power ∧ s.timeLimit.time = s.time ∧ s.timeLimit.fuses = s.fuses ∧
    s.timeLimit.profile = s.profile ∧ s.timeLimit.powered = s.powered ∧ s.timeLimit.resetHeld = s.resetHeld ∧
    s.timeLimit.answers = s.answers ∧ s.timeLimit.link = s.link ∧ s.timeLimit.draws = s.draws ∧
    s.timeLimit.pending = s.pending := by
  simp only [timeLimit]
  (repeat' split) <;> simp

@[simp] theorem deferredDue_frame :
    s.deferredDue.port = s.port ∧ s.deferredDue.control = s.control ∧ s.deferredDue.rule = s.rule ∧
    s.deferredDue.capture = s.capture ∧ s.deferredDue.staging = s.staging ∧ s.deferredDue.power = s.power ∧
    s.deferredDue.time = s.time ∧ s.deferredDue.events = s.events ∧ s.deferredDue.fuses = s.fuses ∧
    s.deferredDue.profile = s.profile ∧ s.deferredDue.powered = s.powered ∧ s.deferredDue.resetHeld = s.resetHeld ∧
    s.deferredDue.answers = s.answers ∧ s.deferredDue.draws = s.draws ∧ s.deferredDue.pending = s.pending := by
  simp only [deferredDue]
  (repeat' split) <;> simp

@[simp] theorem completeDrain_frame :
    s.completeDrain.port = s.port ∧ s.completeDrain.control = s.control ∧ s.completeDrain.rule = s.rule ∧
    s.completeDrain.capture = s.capture ∧ s.completeDrain.staging = s.staging ∧ s.completeDrain.time = s.time ∧
    s.completeDrain.fuses = s.fuses ∧ s.completeDrain.profile = s.profile ∧ s.completeDrain.powered = s.powered ∧
    s.completeDrain.resetHeld = s.resetHeld ∧ s.completeDrain.answers = s.answers ∧ s.completeDrain.link = s.link ∧
    s.completeDrain.draws = s.draws ∧ s.completeDrain.pending = s.pending := by
  simp only [completeDrain]
  (repeat' split) <;> simp

@[simp] theorem drainExpired_frame :
    s.drainExpired.port = s.port ∧ s.drainExpired.control = s.control ∧ s.drainExpired.rule = s.rule ∧
    s.drainExpired.capture = s.capture ∧ s.drainExpired.staging = s.staging ∧ s.drainExpired.time = s.time ∧
    s.drainExpired.fuses = s.fuses ∧ s.drainExpired.profile = s.profile ∧ s.drainExpired.powered = s.powered ∧
    s.drainExpired.resetHeld = s.resetHeld ∧ s.drainExpired.answers = s.answers ∧ s.drainExpired.link = s.link ∧
    s.drainExpired.draws = s.draws ∧ s.drainExpired.pending = s.pending := by
  simp only [drainExpired]
  (repeat' split) <;> simp

@[simp] theorem enterSafe_frame :
    s.enterSafe.control = s.control ∧ s.enterSafe.rule = s.rule ∧ s.enterSafe.capture = s.capture ∧
    s.enterSafe.staging = s.staging ∧ s.enterSafe.time = s.time ∧ s.enterSafe.fuses = s.fuses ∧
    s.enterSafe.profile = s.profile ∧ s.enterSafe.powered = s.powered ∧ s.enterSafe.resetHeld = s.resetHeld ∧
    s.enterSafe.answers = s.answers ∧ s.enterSafe.link = s.link ∧ s.enterSafe.draws = s.draws ∧
    s.enterSafe.pending = s.pending := by
  simp only [enterSafe]
  (repeat' split) <;> simp

@[simp] theorem refuseHeld_frame :
    s.refuseHeld.control = s.control ∧ s.refuseHeld.rule = s.rule ∧ s.refuseHeld.staging = s.staging ∧
    s.refuseHeld.seq = s.seq ∧ s.refuseHeld.power = s.power ∧ s.refuseHeld.time = s.time ∧
    s.refuseHeld.fuses = s.fuses ∧ s.refuseHeld.profile = s.profile ∧ s.refuseHeld.powered = s.powered ∧
    s.refuseHeld.resetHeld = s.resetHeld ∧ s.refuseHeld.link = s.link ∧ s.refuseHeld.draws = s.draws ∧
    s.refuseHeld.pending = s.pending := by
  simp only [refuseHeld]
  (repeat' split) <;> simp

@[simp] theorem enterEmergency_frame :
    s.enterEmergency.control = s.control ∧ s.enterEmergency.rule = s.rule ∧ s.enterEmergency.seq = s.seq ∧
    s.enterEmergency.time = s.time ∧ s.enterEmergency.fuses = s.fuses ∧ s.enterEmergency.profile = s.profile ∧
    s.enterEmergency.powered = s.powered ∧ s.enterEmergency.resetHeld = s.resetHeld ∧
    s.enterEmergency.link = s.link ∧ s.enterEmergency.draws = s.draws ∧ s.enterEmergency.pending = s.pending := by
  simp [enterEmergency]

@[simp] theorem takeAssertion_frame :
    s.takeAssertion.control = s.control ∧ s.takeAssertion.rule = s.rule ∧ s.takeAssertion.time = s.time ∧
    s.takeAssertion.fuses = s.fuses ∧ s.takeAssertion.profile = s.profile ∧ s.takeAssertion.powered = s.powered ∧
    s.takeAssertion.resetHeld = s.resetHeld ∧ s.takeAssertion.link = s.link ∧ s.takeAssertion.draws = s.draws ∧
    s.takeAssertion.pending = s.pending := by
  simp only [takeAssertion]
  (repeat' split) <;> simp

@[simp] theorem setPwrwarn_frame (b : Bool) :
    (s.setPwrwarn b).port = s.port ∧ (s.setPwrwarn b).control = s.control ∧ (s.setPwrwarn b).rule = s.rule ∧
    (s.setPwrwarn b).capture = s.capture ∧ (s.setPwrwarn b).staging = s.staging ∧ (s.setPwrwarn b).seq = s.seq ∧
    (s.setPwrwarn b).time = s.time ∧ (s.setPwrwarn b).events = s.events ∧ (s.setPwrwarn b).fuses = s.fuses ∧
    (s.setPwrwarn b).profile = s.profile ∧ (s.setPwrwarn b).powered = s.powered ∧
    (s.setPwrwarn b).resetHeld = s.resetHeld ∧ (s.setPwrwarn b).answers = s.answers ∧
    (s.setPwrwarn b).link = s.link ∧ (s.setPwrwarn b).draws = s.draws ∧ (s.setPwrwarn b).pending = s.pending := by
  simp [setPwrwarn]

@[simp] theorem pwrwarnHigh_frame :
    s.pwrwarnHigh.control = s.control ∧ s.pwrwarnHigh.rule = s.rule ∧ s.pwrwarnHigh.time = s.time ∧
    s.pwrwarnHigh.fuses = s.fuses ∧ s.pwrwarnHigh.profile = s.profile ∧ s.pwrwarnHigh.powered = s.powered ∧
    s.pwrwarnHigh.resetHeld = s.resetHeld ∧ s.pwrwarnHigh.link = s.link ∧ s.pwrwarnHigh.draws = s.draws ∧
    s.pwrwarnHigh.pending = s.pending := by
  simp only [pwrwarnHigh]
  (repeat' split) <;> simp

@[simp] theorem pwrwarnLow_frame :
    s.pwrwarnLow.port = s.port ∧ s.pwrwarnLow.control = s.control ∧ s.pwrwarnLow.rule = s.rule ∧
    s.pwrwarnLow.capture = s.capture ∧ s.pwrwarnLow.staging = s.staging ∧ s.pwrwarnLow.time = s.time ∧
    s.pwrwarnLow.events = s.events ∧ s.pwrwarnLow.fuses = s.fuses ∧ s.pwrwarnLow.profile = s.profile ∧
    s.pwrwarnLow.powered = s.powered ∧ s.pwrwarnLow.resetHeld = s.resetHeld ∧ s.pwrwarnLow.answers = s.answers ∧
    s.pwrwarnLow.draws = s.draws ∧ s.pwrwarnLow.pending = s.pending := by
  simp only [pwrwarnLow]
  (repeat' split) <;> simp

@[simp] theorem endStartup_frame (x : SeqState) :
    (s.endStartup x).control = s.control ∧ (s.endStartup x).rule = s.rule ∧ (s.endStartup x).time = s.time ∧
    (s.endStartup x).fuses = s.fuses ∧ (s.endStartup x).profile = s.profile ∧ (s.endStartup x).powered = s.powered ∧
    (s.endStartup x).resetHeld = s.resetHeld ∧ (s.endStartup x).link = s.link ∧ (s.endStartup x).draws = s.draws ∧
    (s.endStartup x).pending = s.pending := by
  simp only [endStartup]
  (repeat' split) <;> simp

@[simp] theorem stallStartup_frame :
    s.stallStartup.control = s.control ∧ s.stallStartup.rule = s.rule ∧ s.stallStartup.time = s.time ∧
    s.stallStartup.fuses = s.fuses ∧ s.stallStartup.profile = s.profile ∧ s.stallStartup.powered = s.powered ∧
    s.stallStartup.resetHeld = s.resetHeld ∧ s.stallStartup.link = s.link ∧ s.stallStartup.draws = s.draws ∧
    s.stallStartup.pending = s.pending := by
  simp [stallStartup]

@[simp] theorem resumeStartup_frame :
    s.resumeStartup.port = s.port ∧ s.resumeStartup.control = s.control ∧ s.resumeStartup.rule = s.rule ∧
    s.resumeStartup.capture = s.capture ∧ s.resumeStartup.staging = s.staging ∧ s.resumeStartup.power = s.power ∧
    s.resumeStartup.time = s.time ∧ s.resumeStartup.fuses = s.fuses ∧ s.resumeStartup.profile = s.profile ∧
    s.resumeStartup.powered = s.powered ∧ s.resumeStartup.resetHeld = s.resetHeld ∧
    s.resumeStartup.answers = s.answers ∧ s.resumeStartup.draws = s.draws ∧ s.resumeStartup.pending = s.pending := by
  simp [resumeStartup]

@[simp] theorem firstStatus_frame (x : Byte) :
    (s.firstStatus x).control = s.control ∧ (s.firstStatus x).rule = s.rule ∧ (s.firstStatus x).time = s.time ∧
    (s.firstStatus x).fuses = s.fuses ∧ (s.firstStatus x).profile = s.profile ∧
    (s.firstStatus x).powered = s.powered ∧ (s.firstStatus x).resetHeld = s.resetHeld ∧
    (s.firstStatus x).draws = s.draws ∧ (s.firstStatus x).pending = s.pending := by
  simp only [firstStatus]
  (repeat' split) <;> simp

@[simp] theorem wakeEnded_frame (x : Byte) :
    (s.wakeEnded x).control = s.control ∧ (s.wakeEnded x).rule = s.rule ∧ (s.wakeEnded x).time = s.time ∧
    (s.wakeEnded x).fuses = s.fuses ∧ (s.wakeEnded x).profile = s.profile ∧ (s.wakeEnded x).powered = s.powered ∧
    (s.wakeEnded x).resetHeld = s.resetHeld ∧ (s.wakeEnded x).draws = s.draws ∧
    (s.wakeEnded x).pending = s.pending := by
  simp only [wakeEnded]
  (repeat' split) <;> simp

@[simp] theorem wakeEndDue_frame (x : Byte) :
    (s.wakeEndDue x).control = s.control ∧ (s.wakeEndDue x).rule = s.rule ∧ (s.wakeEndDue x).time = s.time ∧
    (s.wakeEndDue x).fuses = s.fuses ∧ (s.wakeEndDue x).profile = s.profile ∧ (s.wakeEndDue x).powered = s.powered ∧
    (s.wakeEndDue x).resetHeld = s.resetHeld ∧ (s.wakeEndDue x).draws = s.draws ∧
    (s.wakeEndDue x).pending = s.pending := by
  simp only [wakeEndDue]
  (repeat' split) <;> simp

@[simp] theorem startupPoll_frame (r : Bool) (x : Byte) :
    (s.startupPoll r x).control = s.control ∧ (s.startupPoll r x).rule = s.rule ∧
    (s.startupPoll r x).time = s.time ∧ (s.startupPoll r x).fuses = s.fuses ∧
    (s.startupPoll r x).profile = s.profile ∧ (s.startupPoll r x).powered = s.powered ∧
    (s.startupPoll r x).resetHeld = s.resetHeld ∧ (s.startupPoll r x).draws = s.draws ∧
    (s.startupPoll r x).pending = s.pending := by
  simp only [startupPoll]
  (repeat' split) <;> simp

@[simp] theorem stallPoll_frame (x : Byte) :
    (s.stallPoll x).port = s.port ∧ (s.stallPoll x).control = s.control ∧ (s.stallPoll x).rule = s.rule ∧
    (s.stallPoll x).capture = s.capture ∧ (s.stallPoll x).staging = s.staging ∧ (s.stallPoll x).power = s.power ∧
    (s.stallPoll x).time = s.time ∧ (s.stallPoll x).events = s.events ∧ (s.stallPoll x).fuses = s.fuses ∧
    (s.stallPoll x).profile = s.profile ∧ (s.stallPoll x).powered = s.powered ∧
    (s.stallPoll x).resetHeld = s.resetHeld ∧ (s.stallPoll x).answers = s.answers ∧
    (s.stallPoll x).draws = s.draws ∧ (s.stallPoll x).pending = s.pending := by
  simp only [stallPoll]
  (repeat' split) <;> simp

@[simp] theorem tickPoll_frame (x : Byte) :
    (s.tickPoll x).control = s.control ∧ (s.tickPoll x).rule = s.rule ∧ (s.tickPoll x).time = s.time ∧
    (s.tickPoll x).fuses = s.fuses ∧ (s.tickPoll x).profile = s.profile ∧ (s.tickPoll x).powered = s.powered ∧
    (s.tickPoll x).resetHeld = s.resetHeld ∧ (s.tickPoll x).draws = s.draws ∧ (s.tickPoll x).pending = s.pending := by
  simp only [tickPoll]
  (repeat' split) <;> simp

@[simp] theorem startupLimitDue_frame :
    s.startupLimitDue.control = s.control ∧ s.startupLimitDue.rule = s.rule ∧ s.startupLimitDue.time = s.time ∧
    s.startupLimitDue.fuses = s.fuses ∧ s.startupLimitDue.profile = s.profile ∧
    s.startupLimitDue.powered = s.powered ∧ s.startupLimitDue.resetHeld = s.resetHeld ∧
    s.startupLimitDue.link = s.link ∧ s.startupLimitDue.draws = s.draws ∧ s.startupLimitDue.pending = s.pending := by
  simp only [startupLimitDue]
  (repeat' split) <;> simp

@[simp] theorem answerAll_frame :
    s.answerAll.control = s.control ∧ s.answerAll.rule = s.rule ∧ s.answerAll.staging = s.staging ∧
    s.answerAll.seq = s.seq ∧ s.answerAll.power = s.power ∧ s.answerAll.time = s.time ∧
    s.answerAll.fuses = s.fuses ∧ s.answerAll.profile = s.profile ∧ s.answerAll.powered = s.powered ∧
    s.answerAll.resetHeld = s.resetHeld ∧ s.answerAll.link = s.link ∧ s.answerAll.draws = s.draws ∧
    s.answerAll.pending = s.pending := by
  unfold answerAll
  refine ⟨?_, ?_, ?_, ?_, ?_, ?_, ?_, ?_, ?_, ?_, ?_, ?_, ?_⟩
  all_goals exact (foldl_keeps _ (fun x => _) (fun x a => by simp) _ _).trans (by simp)

@[simp] theorem resetSequencer_frame :
    s.resetSequencer.port = s.port ∧ s.resetSequencer.control = s.control ∧ s.resetSequencer.rule = s.rule ∧
    s.resetSequencer.capture = s.capture ∧ s.resetSequencer.staging = s.staging ∧ s.resetSequencer.time = s.time ∧
    s.resetSequencer.events = s.events ∧ s.resetSequencer.fuses = s.fuses ∧ s.resetSequencer.profile = s.profile ∧
    s.resetSequencer.powered = s.powered ∧ s.resetSequencer.resetHeld = s.resetHeld ∧
    s.resetSequencer.answers = s.answers ∧ s.resetSequencer.draws = s.draws ∧
    s.resetSequencer.pending = s.pending := by
  simp only [resetSequencer]
  (repeat' split) <;> simp

@[simp] theorem endDrainQuietly_frame :
    s.endDrainQuietly.port = s.port ∧ s.endDrainQuietly.control = s.control ∧ s.endDrainQuietly.rule = s.rule ∧
    s.endDrainQuietly.capture = s.capture ∧ s.endDrainQuietly.staging = s.staging ∧ s.endDrainQuietly.seq = s.seq ∧
    s.endDrainQuietly.time = s.time ∧ s.endDrainQuietly.events = s.events ∧ s.endDrainQuietly.fuses = s.fuses ∧
    s.endDrainQuietly.profile = s.profile ∧ s.endDrainQuietly.powered = s.powered ∧
    s.endDrainQuietly.resetHeld = s.resetHeld ∧ s.endDrainQuietly.answers = s.answers ∧
    s.endDrainQuietly.link = s.link ∧ s.endDrainQuietly.draws = s.draws ∧ s.endDrainQuietly.pending = s.pending := by
  simp only [endDrainQuietly]
  (repeat' split) <;> simp

@[simp] theorem acceptSoftReset_frame :
    s.acceptSoftReset.rule = s.rule ∧ s.acceptSoftReset.staging = s.staging ∧ s.acceptSoftReset.time = s.time ∧
    s.acceptSoftReset.fuses = s.fuses ∧ s.acceptSoftReset.profile = s.profile ∧
    s.acceptSoftReset.powered = s.powered ∧ s.acceptSoftReset.resetHeld = s.resetHeld ∧
    s.acceptSoftReset.draws = s.draws ∧ s.acceptSoftReset.pending = s.pending := by
  simp [acceptSoftReset]

@[simp] theorem answerControl_frame :
    s.answerControl.control = s.control ∧ s.answerControl.rule = s.rule ∧ s.answerControl.capture = s.capture ∧
    s.answerControl.staging = s.staging ∧ s.answerControl.seq = s.seq ∧ s.answerControl.power = s.power ∧
    s.answerControl.time = s.time ∧ s.answerControl.events = s.events ∧ s.answerControl.fuses = s.fuses ∧
    s.answerControl.profile = s.profile ∧ s.answerControl.powered = s.powered ∧
    s.answerControl.resetHeld = s.resetHeld ∧ s.answerControl.link = s.link ∧ s.answerControl.draws = s.draws ∧
    s.answerControl.pending = s.pending := by
  simp only [answerControl]
  (repeat' split) <;> simp

@[simp] theorem softResetValues_frame :
    s.softResetValues.fuses = s.fuses ∧ s.softResetValues.profile = s.profile ∧
    s.softResetValues.powered = s.powered ∧ s.softResetValues.resetHeld = s.resetHeld ∧
    s.softResetValues.answers = s.answers ∧ s.softResetValues.link = s.link ∧ s.softResetValues.draws = s.draws ∧
    s.softResetValues.pending = s.pending := by
  simp [softResetValues]

@[simp] theorem softResetEffect_frame :
    s.softResetEffect.fuses = s.fuses ∧ s.softResetEffect.profile = s.profile ∧
    s.softResetEffect.powered = s.powered ∧ s.softResetEffect.resetHeld = s.resetHeld ∧
    s.softResetEffect.link = s.link ∧ s.softResetEffect.draws = s.draws ∧ s.softResetEffect.pending = s.pending := by
  simp only [softResetEffect]
  (repeat' split) <;> simp

@[simp] theorem holdExpired_frame :
    s.holdExpired.control = s.control ∧ s.holdExpired.rule = s.rule ∧ s.holdExpired.staging = s.staging ∧
    s.holdExpired.seq = s.seq ∧ s.holdExpired.power = s.power ∧ s.holdExpired.time = s.time ∧
    s.holdExpired.fuses = s.fuses ∧ s.holdExpired.profile = s.profile ∧ s.holdExpired.powered = s.powered ∧
    s.holdExpired.resetHeld = s.resetHeld ∧ s.holdExpired.link = s.link ∧ s.holdExpired.draws = s.draws ∧
    s.holdExpired.pending = s.pending := by
  simp only [holdExpired]
  (repeat' split) <;> simp

@[simp] theorem overlayExpired_frame :
    s.overlayExpired.rule = s.rule ∧ s.overlayExpired.capture = s.capture ∧ s.overlayExpired.time = s.time ∧
    s.overlayExpired.events = s.events ∧ s.overlayExpired.fuses = s.fuses ∧ s.overlayExpired.profile = s.profile ∧
    s.overlayExpired.powered = s.powered ∧ s.overlayExpired.resetHeld = s.resetHeld ∧
    s.overlayExpired.answers = s.answers ∧ s.overlayExpired.draws = s.draws ∧
    s.overlayExpired.pending = s.pending := by
  simp only [overlayExpired]
  (repeat' split) <;> simp

@[simp] theorem idleExpired_frame (i : Nat) :
    (s.idleExpired i).port = s.port ∧ (s.idleExpired i).control = s.control ∧ (s.idleExpired i).rule = s.rule ∧
    (s.idleExpired i).capture = s.capture ∧ (s.idleExpired i).seq = s.seq ∧ (s.idleExpired i).power = s.power ∧
    (s.idleExpired i).time = s.time ∧ (s.idleExpired i).events = s.events ∧ (s.idleExpired i).fuses = s.fuses ∧
    (s.idleExpired i).profile = s.profile ∧ (s.idleExpired i).powered = s.powered ∧
    (s.idleExpired i).resetHeld = s.resetHeld ∧ (s.idleExpired i).answers = s.answers ∧
    (s.idleExpired i).link = s.link ∧ (s.idleExpired i).draws = s.draws ∧ (s.idleExpired i).pending = s.pending := by
  simp only [idleExpired]
  (repeat' split) <;> simp

@[simp] theorem ageExpired_frame (i : Nat) :
    (s.ageExpired i).port = s.port ∧ (s.ageExpired i).control = s.control ∧ (s.ageExpired i).rule = s.rule ∧
    (s.ageExpired i).capture = s.capture ∧ (s.ageExpired i).seq = s.seq ∧ (s.ageExpired i).power = s.power ∧
    (s.ageExpired i).time = s.time ∧ (s.ageExpired i).events = s.events ∧ (s.ageExpired i).fuses = s.fuses ∧
    (s.ageExpired i).profile = s.profile ∧ (s.ageExpired i).powered = s.powered ∧
    (s.ageExpired i).resetHeld = s.resetHeld ∧ (s.ageExpired i).answers = s.answers ∧
    (s.ageExpired i).link = s.link ∧ (s.ageExpired i).draws = s.draws ∧ (s.ageExpired i).pending = s.pending := by
  simp only [ageExpired]
  (repeat' split) <;> simp

@[simp] theorem staleExpired_frame (n : QueueName) :
    (s.staleExpired n).port = s.port ∧ (s.staleExpired n).control = s.control ∧ (s.staleExpired n).rule = s.rule ∧
    (s.staleExpired n).staging = s.staging ∧ (s.staleExpired n).seq = s.seq ∧ (s.staleExpired n).power = s.power ∧
    (s.staleExpired n).time = s.time ∧ (s.staleExpired n).fuses = s.fuses ∧ (s.staleExpired n).profile = s.profile ∧
    (s.staleExpired n).powered = s.powered ∧ (s.staleExpired n).resetHeld = s.resetHeld ∧
    (s.staleExpired n).answers = s.answers ∧ (s.staleExpired n).link = s.link ∧ (s.staleExpired n).draws = s.draws ∧
    (s.staleExpired n).pending = s.pending := by
  simp only [staleExpired]
  (repeat' split) <;> simp

@[simp] theorem placeReply_frame :
    s.placeReply.rule = s.rule ∧ s.placeReply.capture = s.capture ∧ s.placeReply.staging = s.staging ∧
    s.placeReply.seq = s.seq ∧ s.placeReply.power = s.power ∧ s.placeReply.time = s.time ∧
    s.placeReply.events = s.events ∧ s.placeReply.fuses = s.fuses ∧ s.placeReply.profile = s.profile ∧
    s.placeReply.powered = s.powered ∧ s.placeReply.resetHeld = s.resetHeld ∧ s.placeReply.link = s.link ∧
    s.placeReply.draws = s.draws ∧ s.placeReply.pending = s.pending := by
  simp only [placeReply]
  (repeat' split) <;> simp

@[simp] theorem setReply_frame (c : Byte) (r : Reply) :
    (s.setReply c r).control = s.control ∧ (s.setReply c r).rule = s.rule ∧ (s.setReply c r).capture = s.capture ∧
    (s.setReply c r).staging = s.staging ∧ (s.setReply c r).seq = s.seq ∧ (s.setReply c r).power = s.power ∧
    (s.setReply c r).time = s.time ∧ (s.setReply c r).events = s.events ∧ (s.setReply c r).fuses = s.fuses ∧
    (s.setReply c r).profile = s.profile ∧ (s.setReply c r).powered = s.powered ∧
    (s.setReply c r).resetHeld = s.resetHeld ∧ (s.setReply c r).answers = s.answers ∧
    (s.setReply c r).link = s.link ∧ (s.setReply c r).draws = s.draws ∧ (s.setReply c r).pending = s.pending := by
  simp only [setReply]
  (repeat' split) <;> simp

@[simp] theorem presentWrite_frame (w : WriteReq) :
    (s.presentWrite w).control = s.control ∧ (s.presentWrite w).rule = s.rule ∧
    (s.presentWrite w).capture = s.capture ∧ (s.presentWrite w).staging = s.staging ∧
    (s.presentWrite w).seq = s.seq ∧ (s.presentWrite w).power = s.power ∧ (s.presentWrite w).time = s.time ∧
    (s.presentWrite w).events = s.events ∧ (s.presentWrite w).fuses = s.fuses ∧
    (s.presentWrite w).profile = s.profile ∧ (s.presentWrite w).powered = s.powered ∧
    (s.presentWrite w).resetHeld = s.resetHeld ∧ (s.presentWrite w).answers = s.answers ∧
    (s.presentWrite w).link = s.link ∧ (s.presentWrite w).draws = s.draws ∧
    (s.presentWrite w).pending = s.pending := by
  simp [presentWrite]

@[simp] theorem presentRecord_frame (l : Addr) (c : Byte) (a : List Byte) :
    (s.presentRecord l c a).control = s.control ∧ (s.presentRecord l c a).rule = s.rule ∧
    (s.presentRecord l c a).capture = s.capture ∧ (s.presentRecord l c a).staging = s.staging ∧
    (s.presentRecord l c a).seq = s.seq ∧ (s.presentRecord l c a).power = s.power ∧
    (s.presentRecord l c a).time = s.time ∧ (s.presentRecord l c a).events = s.events ∧
    (s.presentRecord l c a).fuses = s.fuses ∧ (s.presentRecord l c a).profile = s.profile ∧
    (s.presentRecord l c a).powered = s.powered ∧ (s.presentRecord l c a).resetHeld = s.resetHeld ∧
    (s.presentRecord l c a).answers = s.answers ∧ (s.presentRecord l c a).link = s.link ∧
    (s.presentRecord l c a).draws = s.draws ∧ (s.presentRecord l c a).pending = s.pending := by
  simp [presentRecord]

end Sys2Proof.Machine.State
end

