-- ==== Sys2Proof/Laws/Settle.lean ====
section
/-! SUPPORT. What settling an event does: nothing at rest, one effect after another otherwise, and every property each effect keeps. -/

namespace Sys2Proof.Machine

theorem settleN_of_atRest {s : State} (h : s.atRest) : ∀ n, settleN n s = s
  | 0 => rfl
  | n + 1 => by simp only [settleN]; rw [show settleOnce s = none from h]

theorem settle_of_atRest {s : State} (h : s.atRest) : settle s = s := settleN_of_atRest h _

theorem settleN_step {s s' : State} (h : settleOnce s = some s') (n : Nat) : settleN (n + 1) s = settleN n s' := by
  simp only [settleN, h]

theorem event_of_atRest {body : State → State} {s : State} (h : (body s.clearOut).atRest) :
    event body s = body s.clearOut := settle_of_atRest h

theorem settleBound_pos (s : State) : 128 ≤ settleBound s := Nat.le_add_right _ _

/-- One effect, then rest. -/
theorem settle_one {s s1 : State} (h1 : settleOnce s = some s1) (r : s1.atRest) : settle s = s1 := by
  have hb := settleBound_pos s
  obtain ⟨n, hn⟩ : ∃ n, settleBound s = n + 1 := ⟨settleBound s - 1, by omega⟩
  rw [settle, hn, settleN_step h1, settleN_of_atRest r]

/-- Two effects, then rest. -/
theorem settle_two {s s1 s2 : State} (h1 : settleOnce s = some s1) (h2 : settleOnce s1 = some s2) (r : s2.atRest) :
    settle s = s2 := by
  have hb := settleBound_pos s
  obtain ⟨n, hn⟩ : ∃ n, settleBound s = n + 2 := ⟨settleBound s - 2, by omega⟩
  rw [settle, hn, settleN_step h1, settleN_step h2, settleN_of_atRest r]

/-- Three effects, then rest. -/
theorem settle_three {s s1 s2 s3 : State} (h1 : settleOnce s = some s1) (h2 : settleOnce s1 = some s2)
    (h3 : settleOnce s2 = some s3) (r : s3.atRest) : settle s = s3 := by
  have hb := settleBound_pos s
  obtain ⟨n, hn⟩ : ∃ n, settleBound s = n + 3 := ⟨settleBound s - 3, by omega⟩
  rw [settle, hn, settleN_step h1, settleN_step h2, settleN_step h3, settleN_of_atRest r]

/-- Four effects, then rest. -/
theorem settle_four {s s1 s2 s3 s4 : State} (h1 : settleOnce s = some s1) (h2 : settleOnce s1 = some s2)
    (h3 : settleOnce s2 = some s3) (h4 : settleOnce s3 = some s4) (r : s4.atRest) : settle s = s4 := by
  have hb := settleBound_pos s
  obtain ⟨n, hn⟩ : ∃ n, settleBound s = n + 4 := ⟨settleBound s - 4, by omega⟩
  rw [settle, hn, settleN_step h1, settleN_step h2, settleN_step h3, settleN_step h4, settleN_of_atRest r]

/-- A property that every effect keeps is kept by settling. -/
theorem settleN_keeps {P : State → Prop} (h : ∀ s s', P s → settleOnce s = some s' → P s') :
    ∀ n s, P s → P (settleN n s)
  | 0, _, hs => hs
  | n + 1, s, hs => by
    simp only [settleN]
    split
    · rename_i s' e
      exact settleN_keeps h n s' (h s s' hs e)
    · exact hs

theorem settle_keeps {P : State → Prop} (h : ∀ s s', P s → settleOnce s = some s' → P s') {s : State} (hs : P s) :
    P (settle s) := settleN_keeps h _ s hs

theorem event_keeps {P : State → Prop} (h : ∀ s s', P s → settleOnce s = some s' → P s') {body : State → State}
    {s : State} (hb : P (body s.clearOut)) : P (event body s) := settle_keeps h hb

/-- A property that each of the eleven effects keeps where it is due is kept by one effect. -/
theorem settleOnce_keeps {P : State → Prop} {s s' : State} (e : settleOnce s = some s')
    (softReset : s.softResetDue = true → P s.softResetEffect) (release : s.canReleaseWrite = true → P s.releaseWrite)
    (hazards : s.canReleaseHazard = true → P s.releaseHazards) (withdraw : s.sleepSpoiled = true → P s.withdrawSleep)
    (grant : s.canGrant = true → P s.grantNext) (answer : s.canAnswer = true → P s.answerInTurn)
    (drain : s.drainDue = true → P s.completeDrain) (safe : s.safeDue = true → P s.enterSafe)
    (reply : s.canPlaceReply = true → P s.placeReply) (read : s.canAcceptRead = true → P s.acceptNextRead)
    (write : s.canAcceptWrite = true → P s.acceptNextWrite) : P s' := by
  unfold settleOnce at e
  by_cases h : s.softResetDue = true
  · rw [if_pos h, Option.some.injEq] at e; exact e ▸ softReset h
  rw [if_neg h] at e; clear h
  by_cases h : s.canReleaseWrite = true
  · rw [if_pos h, Option.some.injEq] at e; exact e ▸ release h
  rw [if_neg h] at e; clear h
  by_cases h : s.canReleaseHazard = true
  · rw [if_pos h, Option.some.injEq] at e; exact e ▸ hazards h
  rw [if_neg h] at e; clear h
  by_cases h : s.sleepSpoiled = true
  · rw [if_pos h, Option.some.injEq] at e; exact e ▸ withdraw h
  rw [if_neg h] at e; clear h
  by_cases h : s.canGrant = true
  · rw [if_pos h, Option.some.injEq] at e; exact e ▸ grant h
  rw [if_neg h] at e; clear h
  by_cases h : s.drainDue = true
  · rw [if_pos h, Option.some.injEq] at e; exact e ▸ drain h
  rw [if_neg h] at e; clear h
  by_cases h : s.safeDue = true
  · rw [if_pos h, Option.some.injEq] at e; exact e ▸ safe h
  rw [if_neg h] at e; clear h
  by_cases h : s.canPlaceReply = true
  · rw [if_pos h, Option.some.injEq] at e; exact e ▸ reply h
  rw [if_neg h] at e; clear h
  by_cases h : s.canAnswer = true
  · rw [if_pos h, Option.some.injEq] at e; exact e ▸ answer h
  rw [if_neg h] at e; clear h
  by_cases h : s.canAcceptWrite = true
  · rw [if_pos h, Option.some.injEq] at e; exact e ▸ write h
  rw [if_neg h] at e; clear h
  by_cases h : s.canAcceptRead = true
  · rw [if_pos h, Option.some.injEq] at e; exact e ▸ read h
  rw [if_neg h] at e; clear h
  cases e

/-- What rest means, condition by condition. -/
theorem atRest_iff (s : State) : s.atRest ↔
    s.softResetDue = false ∧ s.canReleaseWrite = false ∧ s.canReleaseHazard = false ∧ s.sleepSpoiled = false ∧
    s.canGrant = false ∧ s.canAnswer = false ∧ s.drainDue = false ∧ s.safeDue = false ∧ s.canPlaceReply = false ∧
    s.canAcceptRead = false ∧ s.canAcceptWrite = false := by
  unfold State.atRest settleOnce
  constructor
  · intro h
    repeat' split at h
    all_goals first | (simp at h; done) | simp_all
  · rintro ⟨h1, h2, h3, h4, h5, h6, h7, h8, h9, h10, h11⟩
    simp [*]

/-! ### Runs and Reaches -/

/-- An event whose own effect is `x` reaches `x`. -/
theorem reaches_of_event {c : Instr} {s x : State} {body : State → State} (h : exec c s = .next (event body s))
    (hx : body s.clearOut = x) : Reaches c s x := by
  subst hx
  refine ⟨⟨settleBound (body s.clearOut), ?_, h⟩, fun r => ?_⟩
  · have := settleBound_pos (body s.clearOut); omega
  · rw [h, event_of_atRest r]

/-- An event whose own effect is followed by one effect that leads to `x` reaches `x`. -/
theorem reaches_of_step {c : Instr} {s x : State} {body : State → State} (h : exec c s = .next (event body s))
    (h1 : settleOnce (body s.clearOut) = some x) : Reaches c s x := by
  have hb := settleBound_pos (body s.clearOut)
  obtain ⟨n, hn⟩ : ∃ n, settleBound (body s.clearOut) = n + 1 := ⟨settleBound (body s.clearOut) - 1, by omega⟩
  have e : event body s = settleN n x := by rw [event, settle, hn, settleN_step h1]
  refine ⟨⟨n, by omega, h.trans (by rw [e])⟩, fun r => ?_⟩
  rw [h, e, settleN_of_atRest r]

/-- An event whose own effect is followed by two effects that lead to `x` reaches `x`. -/
theorem reaches_of_steps {c : Instr} {s y x : State} {body : State → State} (h : exec c s = .next (event body s))
    (h1 : settleOnce (body s.clearOut) = some y) (h2 : settleOnce y = some x) : Reaches c s x := by
  have hb := settleBound_pos (body s.clearOut)
  obtain ⟨n, hn⟩ : ∃ n, settleBound (body s.clearOut) = n + 2 := ⟨settleBound (body s.clearOut) - 2, by omega⟩
  have e : event body s = settleN n x := by rw [event, settle, hn, settleN_step h1, settleN_step h2]
  refine ⟨⟨n, by omega, h.trans (by rw [e])⟩, fun r => ?_⟩
  rw [h, e, settleN_of_atRest r]

/-- A command's event runs to what one effect after its own leads to. -/
theorem runs_of_step {c : Instr} {s x : State} {body : State → State} (h : exec c s = .next (event body s))
    (h1 : settleOnce (body s.clearOut) = some x) : Runs c s x := (reaches_of_step h h1).1

end Sys2Proof.Machine
end

