-- ==== Sys2Proof/Laws/CommandFrames.lean ====
section
/-! SUPPORT. The frame of each command of Table 9-1 and of recognition: the blocks of State it leaves as they are. -/

namespace Sys2Proof.Machine

open State

@[simp] theorem refuse_fst (s : State) (x : Status) (p : List Byte) : (refuse s x p).1 = s := rfl
@[simp] theorem accept_fst (s : State) (p : List Byte) : (accept s p).1 = s := rfl

@[simp] theorem cmdIdentify_frame (s : State) :
    (cmdIdentify s).1.port = s.port ∧ (cmdIdentify s).1.control = s.control ∧ (cmdIdentify s).1.rule = s.rule ∧
    (cmdIdentify s).1.capture = s.capture ∧ (cmdIdentify s).1.staging = s.staging ∧ (cmdIdentify s).1.seq = s.seq ∧
    (cmdIdentify s).1.power = s.power ∧ (cmdIdentify s).1.time = s.time ∧ (cmdIdentify s).1.events = s.events ∧
    (cmdIdentify s).1.fuses = s.fuses ∧ (cmdIdentify s).1.profile = s.profile ∧
    (cmdIdentify s).1.powered = s.powered ∧ (cmdIdentify s).1.resetHeld = s.resetHeld ∧
    (cmdIdentify s).1.answers = s.answers ∧ (cmdIdentify s).1.link = s.link ∧ (cmdIdentify s).1.draws = s.draws ∧
    (cmdIdentify s).1.pending = s.pending := by
  simp [cmdIdentify]

@[simp] theorem cmdReadStatus_frame (s : State) (n : Nat) (c : Byte) :
    (cmdReadStatus n c s).1.port = s.port ∧ (cmdReadStatus n c s).1.control = s.control ∧
    (cmdReadStatus n c s).1.rule = s.rule ∧ (cmdReadStatus n c s).1.capture = s.capture ∧
    (cmdReadStatus n c s).1.seq = s.seq ∧ (cmdReadStatus n c s).1.power = s.power ∧
    (cmdReadStatus n c s).1.time = s.time ∧ (cmdReadStatus n c s).1.events = s.events ∧
    (cmdReadStatus n c s).1.fuses = s.fuses ∧ (cmdReadStatus n c s).1.profile = s.profile ∧
    (cmdReadStatus n c s).1.powered = s.powered ∧ (cmdReadStatus n c s).1.resetHeld = s.resetHeld ∧
    (cmdReadStatus n c s).1.answers = s.answers ∧ (cmdReadStatus n c s).1.link = s.link ∧
    (cmdReadStatus n c s).1.pending = s.pending := by
  simp only [cmdReadStatus]
  (repeat' split) <;> simp

@[simp] theorem cmdSoftReset_frame (s : State) (c : Byte) :
    (cmdSoftReset c s).1.rule = s.rule ∧ (cmdSoftReset c s).1.staging = s.staging ∧
    (cmdSoftReset c s).1.time = s.time ∧ (cmdSoftReset c s).1.fuses = s.fuses ∧
    (cmdSoftReset c s).1.profile = s.profile ∧ (cmdSoftReset c s).1.powered = s.powered ∧
    (cmdSoftReset c s).1.resetHeld = s.resetHeld ∧ (cmdSoftReset c s).1.draws = s.draws ∧
    (cmdSoftReset c s).1.pending = s.pending := by
  simp only [cmdSoftReset, awaitReset]
  (repeat' split) <;> simp

@[simp] theorem cmdSetTiming_frame (s : State) (t : TimingSettings) :
    (cmdSetTiming t s).1.port = s.port ∧ (cmdSetTiming t s).1.control = s.control ∧
    (cmdSetTiming t s).1.rule = s.rule ∧ (cmdSetTiming t s).1.capture = s.capture ∧
    (cmdSetTiming t s).1.staging = s.staging ∧ (cmdSetTiming t s).1.seq = s.seq ∧
    (cmdSetTiming t s).1.power = s.power ∧ (cmdSetTiming t s).1.events = s.events ∧
    (cmdSetTiming t s).1.fuses = s.fuses ∧ (cmdSetTiming t s).1.profile = s.profile ∧
    (cmdSetTiming t s).1.powered = s.powered ∧ (cmdSetTiming t s).1.resetHeld = s.resetHeld ∧
    (cmdSetTiming t s).1.answers = s.answers ∧ (cmdSetTiming t s).1.link = s.link ∧
    (cmdSetTiming t s).1.draws = s.draws ∧ (cmdSetTiming t s).1.pending = s.pending := by
  simp only [cmdSetTiming]
  (repeat' split) <;> simp

@[simp] theorem cmdClearEvents_frame (s : State) (x : BitVec 32) :
    (cmdClearEvents x s).1.port = s.port ∧ (cmdClearEvents x s).1.control = s.control ∧
    (cmdClearEvents x s).1.rule = s.rule ∧ (cmdClearEvents x s).1.capture = s.capture ∧
    (cmdClearEvents x s).1.staging = s.staging ∧ (cmdClearEvents x s).1.seq = s.seq ∧
    (cmdClearEvents x s).1.power = s.power ∧ (cmdClearEvents x s).1.time = s.time ∧
    (cmdClearEvents x s).1.fuses = s.fuses ∧ (cmdClearEvents x s).1.profile = s.profile ∧
    (cmdClearEvents x s).1.powered = s.powered ∧ (cmdClearEvents x s).1.resetHeld = s.resetHeld ∧
    (cmdClearEvents x s).1.answers = s.answers ∧ (cmdClearEvents x s).1.link = s.link ∧
    (cmdClearEvents x s).1.draws = s.draws ∧ (cmdClearEvents x s).1.pending = s.pending := by
  simp only [cmdClearEvents]
  (repeat' split) <;> simp

@[simp] theorem cmdSetEventEnables_frame (s : State) (x : BitVec 32) :
    (cmdSetEventEnables x s).1.port = s.port ∧ (cmdSetEventEnables x s).1.control = s.control ∧
    (cmdSetEventEnables x s).1.rule = s.rule ∧ (cmdSetEventEnables x s).1.capture = s.capture ∧
    (cmdSetEventEnables x s).1.staging = s.staging ∧ (cmdSetEventEnables x s).1.seq = s.seq ∧
    (cmdSetEventEnables x s).1.power = s.power ∧ (cmdSetEventEnables x s).1.time = s.time ∧
    (cmdSetEventEnables x s).1.fuses = s.fuses ∧ (cmdSetEventEnables x s).1.profile = s.profile ∧
    (cmdSetEventEnables x s).1.powered = s.powered ∧ (cmdSetEventEnables x s).1.resetHeld = s.resetHeld ∧
    (cmdSetEventEnables x s).1.answers = s.answers ∧ (cmdSetEventEnables x s).1.link = s.link ∧
    (cmdSetEventEnables x s).1.draws = s.draws ∧ (cmdSetEventEnables x s).1.pending = s.pending := by
  simp only [cmdSetEventEnables]
  (repeat' split) <;> simp

@[simp] theorem cmdSetRule_frame (s : State) (a : RuleArgs) :
    (cmdSetRule a s).1.port = s.port ∧ (cmdSetRule a s).1.control = s.control ∧
    (cmdSetRule a s).1.capture = s.capture ∧ (cmdSetRule a s).1.staging = s.staging ∧
    (cmdSetRule a s).1.seq = s.seq ∧ (cmdSetRule a s).1.power = s.power ∧ (cmdSetRule a s).1.time = s.time ∧
    (cmdSetRule a s).1.events = s.events ∧ (cmdSetRule a s).1.fuses = s.fuses ∧
    (cmdSetRule a s).1.profile = s.profile ∧ (cmdSetRule a s).1.powered = s.powered ∧
    (cmdSetRule a s).1.resetHeld = s.resetHeld ∧ (cmdSetRule a s).1.answers = s.answers ∧
    (cmdSetRule a s).1.link = s.link ∧ (cmdSetRule a s).1.draws = s.draws ∧
    (cmdSetRule a s).1.pending = s.pending := by
  simp only [cmdSetRule]
  (repeat' split) <;> simp

@[simp] theorem cmdReadRule_frame (s : State) (i : Byte) :
    (cmdReadRule i s).1.port = s.port ∧ (cmdReadRule i s).1.control = s.control ∧
    (cmdReadRule i s).1.rule = s.rule ∧ (cmdReadRule i s).1.capture = s.capture ∧
    (cmdReadRule i s).1.staging = s.staging ∧ (cmdReadRule i s).1.seq = s.seq ∧
    (cmdReadRule i s).1.power = s.power ∧ (cmdReadRule i s).1.time = s.time ∧
    (cmdReadRule i s).1.events = s.events ∧ (cmdReadRule i s).1.fuses = s.fuses ∧
    (cmdReadRule i s).1.profile = s.profile ∧ (cmdReadRule i s).1.powered = s.powered ∧
    (cmdReadRule i s).1.resetHeld = s.resetHeld ∧ (cmdReadRule i s).1.answers = s.answers ∧
    (cmdReadRule i s).1.link = s.link ∧ (cmdReadRule i s).1.pending = s.pending := by
  simp only [cmdReadRule]
  (repeat' split) <;> simp

@[simp] theorem cmdSetDefault_frame (s : State) (a c : Byte) :
    (cmdSetDefault a c s).1.port = s.port ∧ (cmdSetDefault a c s).1.control = s.control ∧
    (cmdSetDefault a c s).1.capture = s.capture ∧ (cmdSetDefault a c s).1.staging = s.staging ∧
    (cmdSetDefault a c s).1.seq = s.seq ∧ (cmdSetDefault a c s).1.power = s.power ∧
    (cmdSetDefault a c s).1.time = s.time ∧ (cmdSetDefault a c s).1.events = s.events ∧
    (cmdSetDefault a c s).1.fuses = s.fuses ∧ (cmdSetDefault a c s).1.profile = s.profile ∧
    (cmdSetDefault a c s).1.powered = s.powered ∧ (cmdSetDefault a c s).1.resetHeld = s.resetHeld ∧
    (cmdSetDefault a c s).1.answers = s.answers ∧ (cmdSetDefault a c s).1.link = s.link ∧
    (cmdSetDefault a c s).1.draws = s.draws ∧ (cmdSetDefault a c s).1.pending = s.pending := by
  simp only [cmdSetDefault]
  (repeat' split) <;> simp

@[simp] theorem cmdSetFence_frame (s : State) (a c d : Byte) :
    (cmdSetFence a c d s).1.port = s.port ∧ (cmdSetFence a c d s).1.control = s.control ∧
    (cmdSetFence a c d s).1.capture = s.capture ∧ (cmdSetFence a c d s).1.staging = s.staging ∧
    (cmdSetFence a c d s).1.seq = s.seq ∧ (cmdSetFence a c d s).1.power = s.power ∧
    (cmdSetFence a c d s).1.time = s.time ∧ (cmdSetFence a c d s).1.events = s.events ∧
    (cmdSetFence a c d s).1.fuses = s.fuses ∧ (cmdSetFence a c d s).1.profile = s.profile ∧
    (cmdSetFence a c d s).1.powered = s.powered ∧ (cmdSetFence a c d s).1.resetHeld = s.resetHeld ∧
    (cmdSetFence a c d s).1.answers = s.answers ∧ (cmdSetFence a c d s).1.link = s.link ∧
    (cmdSetFence a c d s).1.pending = s.pending := by
  simp only [cmdSetFence]
  (repeat' split) <;> simp

@[simp] theorem cmdSetLock_frame (s : State) (l : Byte) :
    (cmdSetLock l s).1.port = s.port ∧ (cmdSetLock l s).1.control = s.control ∧
    (cmdSetLock l s).1.capture = s.capture ∧ (cmdSetLock l s).1.staging = s.staging ∧
    (cmdSetLock l s).1.seq = s.seq ∧ (cmdSetLock l s).1.power = s.power ∧ (cmdSetLock l s).1.time = s.time ∧
    (cmdSetLock l s).1.events = s.events ∧ (cmdSetLock l s).1.fuses = s.fuses ∧
    (cmdSetLock l s).1.profile = s.profile ∧ (cmdSetLock l s).1.powered = s.powered ∧
    (cmdSetLock l s).1.resetHeld = s.resetHeld ∧ (cmdSetLock l s).1.answers = s.answers ∧
    (cmdSetLock l s).1.link = s.link ∧ (cmdSetLock l s).1.draws = s.draws ∧
    (cmdSetLock l s).1.pending = s.pending := by
  simp only [cmdSetLock]
  (repeat' split) <;> simp

@[simp] theorem cmdSetQueue_frame (s : State) (q m w : Byte) :
    (cmdSetQueue q m w s).1.port = s.port ∧ (cmdSetQueue q m w s).1.control = s.control ∧
    (cmdSetQueue q m w s).1.rule = s.rule ∧ (cmdSetQueue q m w s).1.staging = s.staging ∧
    (cmdSetQueue q m w s).1.seq = s.seq ∧ (cmdSetQueue q m w s).1.power = s.power ∧
    (cmdSetQueue q m w s).1.time = s.time ∧ (cmdSetQueue q m w s).1.events = s.events ∧
    (cmdSetQueue q m w s).1.fuses = s.fuses ∧ (cmdSetQueue q m w s).1.profile = s.profile ∧
    (cmdSetQueue q m w s).1.powered = s.powered ∧ (cmdSetQueue q m w s).1.resetHeld = s.resetHeld ∧
    (cmdSetQueue q m w s).1.answers = s.answers ∧ (cmdSetQueue q m w s).1.link = s.link ∧
    (cmdSetQueue q m w s).1.draws = s.draws ∧ (cmdSetQueue q m w s).1.pending = s.pending := by
  simp only [cmdSetQueue]
  (repeat' split) <;> simp

@[simp] theorem cmdFetchCapture_frame (s : State) (n : Nat) (q m : Byte) :
    (cmdFetchCapture n q m s).1.port = s.port ∧ (cmdFetchCapture n q m s).1.control = s.control ∧
    (cmdFetchCapture n q m s).1.rule = s.rule ∧ (cmdFetchCapture n q m s).1.staging = s.staging ∧
    (cmdFetchCapture n q m s).1.seq = s.seq ∧ (cmdFetchCapture n q m s).1.power = s.power ∧
    (cmdFetchCapture n q m s).1.time = s.time ∧ (cmdFetchCapture n q m s).1.events = s.events ∧
    (cmdFetchCapture n q m s).1.fuses = s.fuses ∧ (cmdFetchCapture n q m s).1.profile = s.profile ∧
    (cmdFetchCapture n q m s).1.powered = s.powered ∧ (cmdFetchCapture n q m s).1.resetHeld = s.resetHeld ∧
    (cmdFetchCapture n q m s).1.answers = s.answers ∧ (cmdFetchCapture n q m s).1.link = s.link ∧
    (cmdFetchCapture n q m s).1.draws = s.draws ∧ (cmdFetchCapture n q m s).1.pending = s.pending := by
  simp only [cmdFetchCapture]
  (repeat' split) <;> simp

@[simp] theorem cmdAckCapture_frame (s : State) (q : Byte) (n : BitVec 32) :
    (cmdAckCapture q n s).1.port = s.port ∧ (cmdAckCapture q n s).1.control = s.control ∧
    (cmdAckCapture q n s).1.rule = s.rule ∧ (cmdAckCapture q n s).1.staging = s.staging ∧
    (cmdAckCapture q n s).1.seq = s.seq ∧ (cmdAckCapture q n s).1.power = s.power ∧
    (cmdAckCapture q n s).1.time = s.time ∧ (cmdAckCapture q n s).1.events = s.events ∧
    (cmdAckCapture q n s).1.fuses = s.fuses ∧ (cmdAckCapture q n s).1.profile = s.profile ∧
    (cmdAckCapture q n s).1.powered = s.powered ∧ (cmdAckCapture q n s).1.resetHeld = s.resetHeld ∧
    (cmdAckCapture q n s).1.answers = s.answers ∧ (cmdAckCapture q n s).1.link = s.link ∧
    (cmdAckCapture q n s).1.draws = s.draws ∧ (cmdAckCapture q n s).1.pending = s.pending := by
  simp only [cmdAckCapture]
  (repeat' split) <;> simp

@[simp] theorem cmdFetchSlot_frame (s : State) (n : Byte) :
    (cmdFetchSlot n s).1.port = s.port ∧ (cmdFetchSlot n s).1.control = s.control ∧
    (cmdFetchSlot n s).1.rule = s.rule ∧ (cmdFetchSlot n s).1.capture = s.capture ∧
    (cmdFetchSlot n s).1.staging = s.staging ∧ (cmdFetchSlot n s).1.seq = s.seq ∧
    (cmdFetchSlot n s).1.power = s.power ∧ (cmdFetchSlot n s).1.time = s.time ∧
    (cmdFetchSlot n s).1.events = s.events ∧ (cmdFetchSlot n s).1.fuses = s.fuses ∧
    (cmdFetchSlot n s).1.profile = s.profile ∧ (cmdFetchSlot n s).1.powered = s.powered ∧
    (cmdFetchSlot n s).1.resetHeld = s.resetHeld ∧ (cmdFetchSlot n s).1.answers = s.answers ∧
    (cmdFetchSlot n s).1.link = s.link ∧ (cmdFetchSlot n s).1.pending = s.pending := by
  simp only [cmdFetchSlot]
  (repeat' split) <;> simp

@[simp] theorem cmdReleaseSlot_frame (s : State) (n : Byte) :
    (cmdReleaseSlot n s).1.port = s.port ∧ (cmdReleaseSlot n s).1.control = s.control ∧
    (cmdReleaseSlot n s).1.rule = s.rule ∧ (cmdReleaseSlot n s).1.staging = s.staging ∧
    (cmdReleaseSlot n s).1.seq = s.seq ∧ (cmdReleaseSlot n s).1.power = s.power ∧
    (cmdReleaseSlot n s).1.time = s.time ∧ (cmdReleaseSlot n s).1.events = s.events ∧
    (cmdReleaseSlot n s).1.fuses = s.fuses ∧ (cmdReleaseSlot n s).1.profile = s.profile ∧
    (cmdReleaseSlot n s).1.powered = s.powered ∧ (cmdReleaseSlot n s).1.resetHeld = s.resetHeld ∧
    (cmdReleaseSlot n s).1.answers = s.answers ∧ (cmdReleaseSlot n s).1.link = s.link ∧
    (cmdReleaseSlot n s).1.draws = s.draws ∧ (cmdReleaseSlot n s).1.pending = s.pending := by
  simp only [cmdReleaseSlot]
  (repeat' split) <;> simp

@[simp] theorem cmdFlush_frame (s : State) (c : Byte) (n : Half) :
    (cmdFlush c n s).1.port = s.port ∧ (cmdFlush c n s).1.control = s.control ∧ (cmdFlush c n s).1.rule = s.rule ∧
    (cmdFlush c n s).1.capture = s.capture ∧ (cmdFlush c n s).1.seq = s.seq ∧ (cmdFlush c n s).1.power = s.power ∧
    (cmdFlush c n s).1.time = s.time ∧ (cmdFlush c n s).1.events = s.events ∧ (cmdFlush c n s).1.fuses = s.fuses ∧
    (cmdFlush c n s).1.profile = s.profile ∧ (cmdFlush c n s).1.powered = s.powered ∧
    (cmdFlush c n s).1.resetHeld = s.resetHeld ∧ (cmdFlush c n s).1.answers = s.answers ∧
    (cmdFlush c n s).1.link = s.link ∧ (cmdFlush c n s).1.draws = s.draws ∧
    (cmdFlush c n s).1.pending = s.pending := by
  simp only [cmdFlush]
  (repeat' split) <;> simp

@[simp] theorem cmdListFaults_frame (s : State) (n : Nat) :
    (cmdListFaults n s).1.port = s.port ∧ (cmdListFaults n s).1.control = s.control ∧
    (cmdListFaults n s).1.rule = s.rule ∧ (cmdListFaults n s).1.capture = s.capture ∧
    (cmdListFaults n s).1.staging = s.staging ∧ (cmdListFaults n s).1.seq = s.seq ∧
    (cmdListFaults n s).1.power = s.power ∧ (cmdListFaults n s).1.time = s.time ∧
    (cmdListFaults n s).1.events = s.events ∧ (cmdListFaults n s).1.fuses = s.fuses ∧
    (cmdListFaults n s).1.profile = s.profile ∧ (cmdListFaults n s).1.powered = s.powered ∧
    (cmdListFaults n s).1.resetHeld = s.resetHeld ∧ (cmdListFaults n s).1.answers = s.answers ∧
    (cmdListFaults n s).1.link = s.link ∧ (cmdListFaults n s).1.pending = s.pending := by
  simp [cmdListFaults]

@[simp] theorem cmdFaultRetry_frame (s : State) (n : Half) :
    (cmdFaultRetry n s).1.port = s.port ∧ (cmdFaultRetry n s).1.control = s.control ∧
    (cmdFaultRetry n s).1.rule = s.rule ∧ (cmdFaultRetry n s).1.capture = s.capture ∧
    (cmdFaultRetry n s).1.seq = s.seq ∧ (cmdFaultRetry n s).1.power = s.power ∧
    (cmdFaultRetry n s).1.time = s.time ∧ (cmdFaultRetry n s).1.events = s.events ∧
    (cmdFaultRetry n s).1.fuses = s.fuses ∧ (cmdFaultRetry n s).1.profile = s.profile ∧
    (cmdFaultRetry n s).1.powered = s.powered ∧ (cmdFaultRetry n s).1.resetHeld = s.resetHeld ∧
    (cmdFaultRetry n s).1.answers = s.answers ∧ (cmdFaultRetry n s).1.link = s.link ∧
    (cmdFaultRetry n s).1.draws = s.draws ∧ (cmdFaultRetry n s).1.pending = s.pending := by
  simp only [cmdFaultRetry]
  (repeat' split) <;> simp

@[simp] theorem cmdFaultDiscard_frame (s : State) (n : Half) :
    (cmdFaultDiscard n s).1.control = s.control ∧ (cmdFaultDiscard n s).1.rule = s.rule ∧
    (cmdFaultDiscard n s).1.capture = s.capture ∧ (cmdFaultDiscard n s).1.time = s.time ∧
    (cmdFaultDiscard n s).1.events = s.events ∧ (cmdFaultDiscard n s).1.fuses = s.fuses ∧
    (cmdFaultDiscard n s).1.profile = s.profile ∧ (cmdFaultDiscard n s).1.powered = s.powered ∧
    (cmdFaultDiscard n s).1.resetHeld = s.resetHeld ∧ (cmdFaultDiscard n s).1.answers = s.answers ∧
    (cmdFaultDiscard n s).1.draws = s.draws ∧ (cmdFaultDiscard n s).1.pending = s.pending := by
  simp only [cmdFaultDiscard]
  (repeat' split) <;> simp

@[simp] theorem cmdSetFlashPolicy_frame (s : State) (a : PolicyArgs) :
    (cmdSetFlashPolicy a s).1.port = s.port ∧ (cmdSetFlashPolicy a s).1.control = s.control ∧
    (cmdSetFlashPolicy a s).1.rule = s.rule ∧ (cmdSetFlashPolicy a s).1.capture = s.capture ∧
    (cmdSetFlashPolicy a s).1.staging = s.staging ∧ (cmdSetFlashPolicy a s).1.power = s.power ∧
    (cmdSetFlashPolicy a s).1.time = s.time ∧ (cmdSetFlashPolicy a s).1.events = s.events ∧
    (cmdSetFlashPolicy a s).1.fuses = s.fuses ∧ (cmdSetFlashPolicy a s).1.profile = s.profile ∧
    (cmdSetFlashPolicy a s).1.powered = s.powered ∧ (cmdSetFlashPolicy a s).1.resetHeld = s.resetHeld ∧
    (cmdSetFlashPolicy a s).1.answers = s.answers ∧ (cmdSetFlashPolicy a s).1.link = s.link ∧
    (cmdSetFlashPolicy a s).1.draws = s.draws ∧ (cmdSetFlashPolicy a s).1.pending = s.pending := by
  simp only [cmdSetFlashPolicy]
  (repeat' split) <;> simp

@[simp] theorem cmdSleep_frame (s : State) :
    (cmdSleep s).1.port = s.port ∧ (cmdSleep s).1.control = s.control ∧ (cmdSleep s).1.rule = s.rule ∧
    (cmdSleep s).1.capture = s.capture ∧ (cmdSleep s).1.seq = s.seq ∧ (cmdSleep s).1.time = s.time ∧
    (cmdSleep s).1.events = s.events ∧ (cmdSleep s).1.fuses = s.fuses ∧ (cmdSleep s).1.profile = s.profile ∧
    (cmdSleep s).1.powered = s.powered ∧ (cmdSleep s).1.resetHeld = s.resetHeld ∧
    (cmdSleep s).1.answers = s.answers ∧ (cmdSleep s).1.link = s.link ∧ (cmdSleep s).1.draws = s.draws ∧
    (cmdSleep s).1.pending = s.pending := by
  simp only [cmdSleep]
  (repeat' split) <;> simp

@[simp] theorem cmdWake_frame (s : State) :
    (cmdWake s).1.port = s.port ∧ (cmdWake s).1.control = s.control ∧ (cmdWake s).1.rule = s.rule ∧
    (cmdWake s).1.capture = s.capture ∧ (cmdWake s).1.staging = s.staging ∧ (cmdWake s).1.time = s.time ∧
    (cmdWake s).1.events = s.events ∧ (cmdWake s).1.fuses = s.fuses ∧ (cmdWake s).1.profile = s.profile ∧
    (cmdWake s).1.powered = s.powered ∧ (cmdWake s).1.resetHeld = s.resetHeld ∧ (cmdWake s).1.answers = s.answers ∧
    (cmdWake s).1.draws = s.draws ∧ (cmdWake s).1.pending = s.pending := by
  simp only [cmdWake]
  (repeat' split) <;> simp

@[simp] theorem cmdSetPowerPolicy_frame (s : State) (a b c : Byte) :
    (cmdSetPowerPolicy a b c s).1.port = s.port ∧ (cmdSetPowerPolicy a b c s).1.control = s.control ∧
    (cmdSetPowerPolicy a b c s).1.rule = s.rule ∧ (cmdSetPowerPolicy a b c s).1.capture = s.capture ∧
    (cmdSetPowerPolicy a b c s).1.staging = s.staging ∧ (cmdSetPowerPolicy a b c s).1.seq = s.seq ∧
    (cmdSetPowerPolicy a b c s).1.time = s.time ∧ (cmdSetPowerPolicy a b c s).1.events = s.events ∧
    (cmdSetPowerPolicy a b c s).1.fuses = s.fuses ∧ (cmdSetPowerPolicy a b c s).1.profile = s.profile ∧
    (cmdSetPowerPolicy a b c s).1.powered = s.powered ∧ (cmdSetPowerPolicy a b c s).1.resetHeld = s.resetHeld ∧
    (cmdSetPowerPolicy a b c s).1.answers = s.answers ∧ (cmdSetPowerPolicy a b c s).1.link = s.link ∧
    (cmdSetPowerPolicy a b c s).1.draws = s.draws ∧ (cmdSetPowerPolicy a b c s).1.pending = s.pending := by
  simp only [cmdSetPowerPolicy]
  (repeat' split) <;> simp

@[simp] theorem cmdProgramFuse_frame (s : State) (g o c : Byte) (d : List Byte) :
    (cmdProgramFuse g o c d s).1.control = s.control ∧ (cmdProgramFuse g o c d s).1.rule = s.rule ∧
    (cmdProgramFuse g o c d s).1.capture = s.capture ∧ (cmdProgramFuse g o c d s).1.staging = s.staging ∧
    (cmdProgramFuse g o c d s).1.seq = s.seq ∧ (cmdProgramFuse g o c d s).1.power = s.power ∧
    (cmdProgramFuse g o c d s).1.time = s.time ∧ (cmdProgramFuse g o c d s).1.events = s.events ∧
    (cmdProgramFuse g o c d s).1.fuses = s.fuses ∧ (cmdProgramFuse g o c d s).1.profile = s.profile ∧
    (cmdProgramFuse g o c d s).1.powered = s.powered ∧ (cmdProgramFuse g o c d s).1.resetHeld = s.resetHeld ∧
    (cmdProgramFuse g o c d s).1.answers = s.answers ∧ (cmdProgramFuse g o c d s).1.link = s.link ∧
    (cmdProgramFuse g o c d s).1.draws = s.draws ∧ (cmdProgramFuse g o c d s).1.pending = s.pending := by
  simp only [cmdProgramFuse, startFuses]
  (repeat' split) <;> simp

@[simp] theorem cmdLockFuse_frame (s : State) (g : Byte) :
    (cmdLockFuse g s).1.port = s.port ∧ (cmdLockFuse g s).1.control = s.control ∧
    (cmdLockFuse g s).1.rule = s.rule ∧ (cmdLockFuse g s).1.capture = s.capture ∧
    (cmdLockFuse g s).1.staging = s.staging ∧ (cmdLockFuse g s).1.seq = s.seq ∧
    (cmdLockFuse g s).1.power = s.power ∧ (cmdLockFuse g s).1.time = s.time ∧
    (cmdLockFuse g s).1.events = s.events ∧ (cmdLockFuse g s).1.profile = s.profile ∧
    (cmdLockFuse g s).1.powered = s.powered ∧ (cmdLockFuse g s).1.resetHeld = s.resetHeld ∧
    (cmdLockFuse g s).1.answers = s.answers ∧ (cmdLockFuse g s).1.link = s.link ∧
    (cmdLockFuse g s).1.draws = s.draws ∧ (cmdLockFuse g s).1.pending = s.pending := by
  simp only [cmdLockFuse]
  (repeat' split) <;> simp

@[simp] theorem cmdUnknown_frame (s : State) :
    (cmdUnknown s).1.port = s.port ∧ (cmdUnknown s).1.control = s.control ∧ (cmdUnknown s).1.rule = s.rule ∧
    (cmdUnknown s).1.capture = s.capture ∧ (cmdUnknown s).1.staging = s.staging ∧ (cmdUnknown s).1.seq = s.seq ∧
    (cmdUnknown s).1.power = s.power ∧ (cmdUnknown s).1.time = s.time ∧ (cmdUnknown s).1.events = s.events ∧
    (cmdUnknown s).1.fuses = s.fuses ∧ (cmdUnknown s).1.profile = s.profile ∧ (cmdUnknown s).1.powered = s.powered ∧
    (cmdUnknown s).1.resetHeld = s.resetHeld ∧ (cmdUnknown s).1.answers = s.answers ∧
    (cmdUnknown s).1.link = s.link ∧ (cmdUnknown s).1.draws = s.draws ∧ (cmdUnknown s).1.pending = s.pending := by
  simp [cmdUnknown]

@[simp] theorem finishCommand_frame (c : Byte) (r : CommandResult) :
    (finishCommand c r).control = r.1.control ∧ (finishCommand c r).rule = r.1.rule ∧
    (finishCommand c r).capture = r.1.capture ∧ (finishCommand c r).staging = r.1.staging ∧
    (finishCommand c r).seq = r.1.seq ∧ (finishCommand c r).power = r.1.power ∧ (finishCommand c r).time = r.1.time ∧
    (finishCommand c r).events = r.1.events ∧ (finishCommand c r).fuses = r.1.fuses ∧
    (finishCommand c r).profile = r.1.profile ∧ (finishCommand c r).powered = r.1.powered ∧
    (finishCommand c r).resetHeld = r.1.resetHeld ∧ (finishCommand c r).answers = r.1.answers ∧
    (finishCommand c r).link = r.1.link ∧ (finishCommand c r).draws = r.1.draws ∧
    (finishCommand c r).pending = r.1.pending := by
  simp only [finishCommand]
  split <;> simp

@[simp] theorem execCode_frame (s : State) (n : Nat) (c : Byte) (a : List Byte) :
    (execCode n c a s).1.profile = s.profile ∧ (execCode n c a s).1.powered = s.powered ∧
    (execCode n c a s).1.resetHeld = s.resetHeld ∧ (execCode n c a s).1.pending = s.pending := by
  unfold execCode
  split <;> simp

namespace State

variable (s : State)

@[simp] theorem consumeRecord_frame (w : WriteInProgress) (b : List Byte) :
    (s.consumeRecord w b).profile = s.profile ∧ (s.consumeRecord w b).powered = s.powered ∧
    (s.consumeRecord w b).resetHeld = s.resetHeld ∧ (s.consumeRecord w b).pending = s.pending := by
  simp [consumeRecord]

@[simp] theorem recognise_frame (w : WriteInProgress) :
    (s.recognise w).profile = s.profile ∧ (s.recognise w).powered = s.powered ∧
    (s.recognise w).resetHeld = s.resetHeld ∧ (s.recognise w).pending = s.pending := by
  unfold recognise
  (repeat' split) <;> simp

@[simp] theorem acceptWrite_frame (w : WriteReq) :
    (s.acceptWrite w).profile = s.profile ∧ (s.acceptWrite w).powered = s.powered ∧
    (s.acceptWrite w).resetHeld = s.resetHeld ∧ (s.acceptWrite w).pending = s.pending := by
  simp only [acceptWrite]
  split <;> simp

@[simp] theorem acceptNextWrite_frame :
    s.acceptNextWrite.profile = s.profile ∧ s.acceptNextWrite.powered = s.powered ∧
    s.acceptNextWrite.resetHeld = s.resetHeld ∧ s.acceptNextWrite.pending = s.pending := by
  unfold acceptNextWrite
  split <;> simp

@[simp] theorem completeFuses_frame (b : List Byte) :
    (s.completeFuses b).pending = s.pending ∧ (s.completeFuses b).profile = s.profile ∧
    (s.completeFuses b).rule = s.rule := by
  simp only [completeFuses]
  (repeat' split) <;> simp

@[simp] theorem tearFuses_frame : s.tearFuses.pending = s.pending := by
  unfold tearFuses
  split <;> simp

end State

/-- One effect of an event leaves the queue of commands, the supply, the RESET pin and the profile in use. -/
theorem settleOnce_frame {s s' : State} (e : settleOnce s = some s') :
    s'.profile = s.profile ∧ s'.powered = s.powered ∧ s'.resetHeld = s.resetHeld ∧ s'.pending = s.pending := by
  refine settleOnce_keeps (P := fun t => t.profile = s.profile ∧ t.powered = s.powered ∧ t.resetHeld = s.resetHeld ∧
    t.pending = s.pending) e ?_ ?_ ?_ ?_ ?_ ?_ ?_ ?_ ?_ ?_ ?_
  all_goals intro _; simp

@[simp] theorem settle_frame (s : State) :
    (settle s).profile = s.profile ∧ (settle s).powered = s.powered ∧ (settle s).resetHeld = s.resetHeld ∧
    (settle s).pending = s.pending := by
  refine settle_keeps (P := fun t => t.profile = s.profile ∧ t.powered = s.powered ∧ t.resetHeld = s.resetHeld ∧
    t.pending = s.pending) ?_ ⟨rfl, rfl, rfl, rfl⟩
  intro a b h e
  obtain ⟨h1, h2, h3, h4⟩ := settleOnce_frame e
  exact ⟨h1.trans h.1, h2.trans h.2.1, h3.trans h.2.2.1, h4.trans h.2.2.2⟩

end Sys2Proof.Machine
end

