-- ==== Sys2Proof/Laws/Control.lean ====
section
/-! SUPPORT. Control records: bytes read back as they were laid out, a record built with the working key is recognised, and a command that leaves the part at rest runs as one event. -/

namespace Sys2Proof.Machine

/-! ### Byte orders -/

theorem byteAt_padTo {l : List Byte} {n : Nat} (h : l.length ≤ n) (i : Nat) : byteAt (padTo n l) i = byteAt l i := by
  simp only [byteAt, padTo, List.getD_eq_getElem?_getD]
  by_cases hi : i < n
  · rw [List.getElem?_take_of_lt hi]
    by_cases hl : i < l.length
    · rw [List.getElem?_append_left hl]
    · rw [List.getElem?_append_right (by omega), List.getElem?_replicate, if_pos (by omega),
        List.getElem?_eq_none (by omega)]
      rfl
  · rw [List.getElem?_eq_none (by simp; omega), List.getElem?_eq_none (by omega)]

theorem length_padTo (n : Nat) (l : List Byte) : (padTo n l).length = n := by
  simp [padTo]

theorem half_padTo {l : List Byte} {n : Nat} (h : l.length ≤ n) (i : Nat) : half (padTo n l) i = half l i := by
  simp only [half, byteAt_padTo h]

theorem addr_padTo {l : List Byte} {n : Nat} (h : l.length ≤ n) (i : Nat) : addr (padTo n l) i = addr l i := by
  simp only [addr, byteAt_padTo h]

theorem word_padTo {l : List Byte} {n : Nat} (h : l.length ≤ n) (i : Nat) : word (padTo n l) i = word l i := by
  simp only [word, byteAt_padTo h]

theorem bytes_half (x : Half) : byteOf (x.toNat / 256) ++ byteOf x.toNat = x := by
  apply BitVec.eq_of_toNat_eq
  have := x.isLt
  simp only [byteOf, BitVec.toNat_append, BitVec.toNat_ofNat, Nat.shiftLeft_eq]
  rw [← Nat.shiftLeft_eq, ← Nat.shiftLeft_add_eq_or_of_lt (by omega), Nat.shiftLeft_eq]
  omega

theorem bytes_addr (x : Addr) : byteOf (x.toNat / 65536) ++ byteOf (x.toNat / 256) ++ byteOf x.toNat = x := by
  apply BitVec.eq_of_toNat_eq
  have := x.isLt
  simp only [byteOf, BitVec.toNat_append, BitVec.toNat_ofNat]
  rw [← Nat.shiftLeft_add_eq_or_of_lt (by omega), ← Nat.shiftLeft_add_eq_or_of_lt (by omega)]
  simp only [Nat.shiftLeft_eq]
  omega

theorem bytes_word (x : BitVec 32) :
    byteOf (x.toNat / 16777216) ++ byteOf (x.toNat / 65536) ++ byteOf (x.toNat / 256) ++ byteOf x.toNat = x := by
  apply BitVec.eq_of_toNat_eq
  have := x.isLt
  simp only [byteOf, BitVec.toNat_append, BitVec.toNat_ofNat]
  rw [← Nat.shiftLeft_add_eq_or_of_lt (by omega), ← Nat.shiftLeft_add_eq_or_of_lt (by omega),
    ← Nat.shiftLeft_add_eq_or_of_lt (by omega)]
  simp only [Nat.shiftLeft_eq]
  omega

@[simp] theorem half_le2 (x : Half) : half (le2 x.toNat) 0 = x := bytes_half x

@[simp] theorem half_cons_le2 (b : Byte) (x : Half) : half (b :: le2 x.toNat) 1 = x := bytes_half x

@[simp] theorem word_le4 (x : BitVec 32) : word (le4 x.toNat) 0 = x := bytes_word x

@[simp] theorem word_cons_le4 (b : Byte) (x : BitVec 32) : word (b :: le4 x.toNat) 1 = x := bytes_word x

@[simp] theorem timingArg_timingBytes (t : TimingSettings) : timingArg (padTo 53 (timingBytes t)) = t := by
  have h : (timingBytes t).length ≤ 53 := by simp [timingBytes, le2]
  simp only [timingArg, half_padTo h, byteAt_padTo h]
  cases t
  simp only [TimingSettings.mk.injEq]
  refine ⟨bytes_half _, bytes_half _, bytes_half _, bytes_half _, bytes_half _, bytes_half _, bytes_half _,
    bytes_half _, bytes_half _, bytes_half _, rfl⟩

@[simp] theorem ruleArg_ruleArgBytes (r : RuleArgs) : ruleArg (padTo 53 (ruleArgBytes r)) = r := by
  have h : (ruleArgBytes r).length ≤ 53 := by simp [ruleArgBytes, le3]
  simp only [ruleArg, addr_padTo h, byteAt_padTo h]
  cases r
  simp only [RuleArgs.mk.injEq]
  refine ⟨rfl, rfl, rfl, rfl, rfl, rfl, rfl, bytes_addr _, bytes_addr _⟩

@[simp] theorem policyArg_policyArgBytes (p : PolicyArgs) : policyArg (padTo 53 (policyArgBytes p)) = p := by
  have h : (policyArgBytes p).length ≤ 53 := by simp [policyArgBytes]
  simp only [policyArg, byteAt_padTo h]
  rfl

/-! ### Recognition (R166) -/

theorem length_recordBytes {key : List Byte} (h : key.length = 8) (code : Byte) (args : List Byte) :
    (recordBytes key code args).length = 64 := by
  simp [recordBytes, h, length_padTo, crcField]

theorem allBytes_map (l : List Byte) : allBytes (l.map some) = some l := by
  induction l with
  | nil => rfl
  | cons b l ih => simp [allBytes, ih]

/-- A record built with a key is a keyed line of that key. -/
theorem keyedLine_controlRecord {key : List Byte} (h : key.length = 8) (line : Addr) (code : Byte) (args : List Byte) :
    keyedLine key (controlRecord key line code args) = some (recordBytes key code args) := by
  have hl := length_recordBytes h code args
  simp only [keyedLine, controlRecord, List.length_map, hl, and_self, if_true, allBytes_map]
  rw [if_pos]
  simp [recordBytes, ← h]

/-- A record built with its check field passes the check (R187). -/
theorem checkHolds_recordBytes {key : List Byte} (h : key.length = 8) (code : Byte) (args : List Byte) :
    checkHolds (recordBytes key code args) = true := by
  have e : recordBytes key code args = key ++ ((code :: padTo 53 args) ++ crcField (crc16 (code :: padTo 53 args))) := by
    simp [recordBytes]
  have h54 : (code :: padTo 53 args).length = 54 := by simp [length_padTo]
  have h62 : (key ++ (code :: padTo 53 args)).length = 62 := by simp [h, length_padTo]
  have d8 : (recordBytes key code args).drop 8 = (code :: padTo 53 args) ++ crcField (crc16 (code :: padTo 53 args)) := by
    rw [e, ← h, List.drop_left]
  have d62 : (recordBytes key code args).drop 62 = crcField (crc16 (code :: padTo 53 args)) := by
    rw [e, ← List.append_assoc, ← h62, List.drop_left]
  simp only [checkHolds, d8, d62]
  rw [← h54, List.take_left]
  simp

theorem code_recordBytes {key : List Byte} (h : key.length = 8) (code : Byte) (args : List Byte) :
    byteAt (recordBytes key code args) 8 = code := by
  simp only [byteAt, recordBytes, List.append_assoc, List.getD_eq_getElem?_getD]
  rw [List.getElem?_append_right (by omega)]
  simp [h]

theorem args_recordBytes {key : List Byte} (h : key.length = 8) (code : Byte) (args : List Byte) :
    ((recordBytes key code args).drop 9).take 53 = padTo 53 args := by
  have e : recordBytes key code args = (key ++ [code]) ++ (padTo 53 args ++ crcField (crc16 (code :: padTo 53 args))) := by
    simp [recordBytes]
  have h9 : (key ++ [code]).length = 9 := by simp [h]
  rw [e, ← h9, List.drop_left, ← length_padTo 53 args, length_padTo, ← length_padTo 53 args, List.take_left']
  simp [length_padTo]

/-! ### One record, one event -/

theorem endOverlay_plain {s : State} (h : s.port.reads.all (fun r => !r.fromOverlay) = true) :
    s.endOverlay = s.withControl { s.control with overlay := none } := by
  unfold State.endOverlay
  split
  · rename_i e
    cases s with
    | mk port control rule capture staging seq power time events fuses profile powered resetHeld answers link draws pending =>
      cases control
      simp only at e
      subst e
      rfl
  · unfold State.resolveAfresh
    have : s.port.reads.filter Read.fromOverlay = [] := by
      rw [List.filter_eq_nil_iff]
      intro r hr
      have := List.all_eq_true.mp h r hr
      simpa using this
    simp [this]

theorem State.ReadyFor.clearOut {s : State} {line : Addr} (h : s.ReadyFor line) : s.clearOut.ReadyFor line := by
  refine ⟨?_, h.lanes, h.free, h.enabled, h.key, h.inside, h.reads⟩
  have := (atRest_iff s).mp h.rest
  exact (atRest_iff _).mpr this

theorem State.ReadyFor.setGuard {s : State} {line : Addr} (h : s.ReadyFor line) (g : Bool) : (s.setGuard g).ReadyFor line := by
  refine ⟨?_, h.lanes, h.free, h.enabled, h.key, h.inside, h.reads⟩
  have := (atRest_iff s).mp h.rest
  exact (atRest_iff _).mpr this

theorem State.ReadyFor.waitWrites {s : State} {line : Addr} (h : s.ReadyFor line) : s.port.waitWrites = [] := by
  have := ((atRest_iff s).mp h.rest).2.2.2.2.2.2.2.2.2.2
  simp only [State.canAcceptWrite, h.lanes, h.free, Option.isNone_none, Bool.true_and, Bool.not_eq_false',
    List.isEmpty_iff] at this
  exact this

/-- The record is accepted, recognised and executed (R166, R168, R169). -/
theorem record_accepted {s : State} {line : Addr} (h : s.ReadyFor line) (code : Byte) (args : List Byte) :
    settleOnce (s.presentRecord line code args) =
      some (finishCommand code (execCode (roomAt (lineOf line)) code (padTo 53 args) (s.executing line code args))) := by
  have hr := (atRest_iff s).mp h.rest
  have hw := h.waitWrites
  obtain ⟨h1, h2, h3, h4, h5, h6, h7, h8, h9, h10, _⟩ := hr
  have hl : lineOf (lineOf line) = lineOf line := by simp [lineOf, BitVec.and_assoc]
  have e1 : s.presentRecord line code args =
      s.withPort { s.port with waitWrites := [controlRecord s.control.key (lineOf line) code args] } := by
    simp [State.presentRecord, State.presentWrite, hw, controlRecord]
  have hacc : (s.presentRecord line code args).canAcceptWrite = true := by
    simp [e1, State.canAcceptWrite, h.lanes, h.free]
  have key : settleOnce (s.presentRecord line code args) = some (s.presentRecord line code args).acceptNextWrite := by
    have c1 : (s.presentRecord line code args).softResetDue = false := h1
    have c2 : (s.presentRecord line code args).canReleaseWrite = false := h2
    have c3 : (s.presentRecord line code args).canReleaseHazard = false := h3
    have c4 : (s.presentRecord line code args).sleepSpoiled = false := h4
    have c5 : (s.presentRecord line code args).canGrant = false := h5
    have c6 : (s.presentRecord line code args).canAnswer = false := h6
    have c7 : (s.presentRecord line code args).drainDue = false := h7
    have c8 : (s.presentRecord line code args).safeDue = false := h8
    have c9 : (s.presentRecord line code args).canPlaceReply = false := h9
    simp [settleOnce, c1, c2, c3, c4, c5, c6, c7, c8, c9, hacc]
  rw [key, e1]
  congr 1
  have eb := length_recordBytes h.key code args
  have hport : ∀ x, (s.withPort { s.port with waitWrites := x }).withPort { s.port with waitWrites := [] } = s := by
    intro x
    cases s with
    | mk port control rule capture staging seq power time events fuses profile powered resetHeld answers link draws pending =>
      cases port
      simp only at hw
      subst hw
      rfl
  simp only [State.acceptNextWrite, State.withPort_port, hport]
  simp only [State.acceptWrite]
  have hcr : crossesLine (controlRecord s.control.key (lineOf line) code args).offset
      (controlRecord s.control.key (lineOf line) code args).bytes.length = false := by
    simp [crossesLine, controlRecord, eb, Config.lineBytes]
  have hsel : selectsByte (controlRecord s.control.key (lineOf line) code args).bytes = true := by
    have : recordBytes s.control.key code args ≠ [] := by
      intro e; rw [e] at eb; cases eb
    obtain ⟨b, l, e⟩ := List.exists_cons_of_ne_nil this
    simp [selectsByte, controlRecord, e]
  have hpast : ∀ w, (s.setWrite w).pastWindow (controlRecord s.control.key (lineOf line) code args).line
      (controlRecord s.control.key (lineOf line) code args).offset
      (controlRecord s.control.key (lineOf line) code args).bytes.length = false := by
    intro w
    have := h.inside
    simpa [controlRecord, eb, State.pastWindow, State.beyondWindow, State.windowSize] using this
  rw [hcr, hsel, hpast]
  simp only [Bool.not_true, Bool.or_self, Bool.false_eq_true, if_false]
  have hen : ∀ w, (s.setWrite w).control = s.control := fun w => rfl
  simp only [State.recognise, hen, h.enabled, if_true, keyedLine_controlRecord h.key, checkHolds_recordBytes h.key]
  simp only [State.consumeRecord, code_recordBytes h.key, args_recordBytes h.key]
  congr 2
  rw [endOverlay_plain (by simpa using h.reads)]
  rfl

/-- What settling looks at, but for the port, is as it was. -/
structure State.Quiet (s t : State) : Prop where
  st : t.seq.st = s.seq.st
  misses : t.seq.misses = s.seq.misses
  fills : t.seq.fills = s.seq.fills
  powerReq : t.seq.powerReq = s.seq.powerReq
  entries : t.staging.entries = s.staging.entries
  closeQueue : t.staging.closeQueue = s.staging.closeQueue
  power : t.power.st = s.power.st
  softReset : t.control.softReset = s.control.softReset

/-- The answered part is at rest again. -/
theorem atRest_of_quiet {s t : State} (hs : s.atRest) (hf : s.port.write = none) (hp : t.port = s.port) (q : s.Quiet t) :
    t.atRest := by
  obtain ⟨h1, h2, h3, h4, h5, h6, h7, h8, h9, h10, h11⟩ := (atRest_iff s).mp hs
  obtain ⟨q1, q2, q3, q4, q5, q6, q7, q8⟩ := q
  refine (atRest_iff t).mpr ⟨?_, ?_, ?_, ?_, ?_, ?_, ?_, ?_, ?_, ?_, ?_⟩
  · simpa [State.softResetDue, q1, q8] using h1
  · simp [State.canReleaseWrite, hp, hf]
  · have e : t.hazardOver = s.hazardOver := by
      funext r; simp [State.hazardOver, State.hazard, hp]
    simpa [State.canReleaseHazard, hp, e] using h3
  · simpa [State.sleepSpoiled, State.unwritten, q4, q5, q7] using h4
  · simpa [State.canGrant, State.claimWaiting, State.commitClaim, Staging.hasClaim, q1, q2, q3, q4, q5, q6, q8] using h5
  · simpa [State.canAnswer, hp] using h6
  · simpa [State.drainDue, State.drainCondition, State.unwritten, State.ordinaryWrite, hp, q1, q2, q4, q5, q7, q8] using h7
  · simpa [State.safeDue, State.safeCondition, q1, q5, q7] using h8
  · simp [State.canPlaceReply, hp, hf]
  · simpa [State.canAcceptRead, hp] using h10
  · simpa [State.canAcceptWrite, hp] using h11

/-- A command whose effect leaves nothing else due runs as one event: its effect, its reply placed, its record
answered OK, and nothing more. -/
theorem record_quiet {s : State} {line : Addr} (h : s.ReadyFor line) (code : Byte) (args : List Byte) {s1 : State}
    {r : Reply}
    (hx : execCode (roomAt (lineOf line)) code (padTo 53 args) (s.executing line code args) = (s1, some r))
    (hp : s1.port = (s.executing line code args).port) (q : s.Quiet s1) :
    settle (s.presentRecord line code args) = (s1.withPort s.port).replied line code r := by
  obtain ⟨h1, h2, h3, h4, h5, h6, h7, h8, h9, h10, h11⟩ := (atRest_iff s).mp h.rest
  have a1 := record_accepted h code args
  rw [hx] at a1
  have q' := q
  obtain ⟨q1, q2, q3, q4, q5, q6, q7, q8⟩ := q
  have hrep : finishCommand code (s1, some r) = s1.setWrite (some
      { req := controlRecord s.control.key (lineOf line) code args, accepted := s.now, hold := none,
        stage := .replying code r, decision := none }) := by
    simp [finishCommand, State.setReply, hp, State.executing]
  rw [hrep] at a1
  generalize hu : s1.setWrite (some _) = u at a1
  have hnr : ∀ x ∈ s.port.reads, ¬ (x.stage = .waitingHazard) := by
    intro x hx e
    have : s.canReleaseHazard = true := by
      simp only [State.canReleaseHazard, List.any_eq_true]
      exact ⟨x, hx, by simp [State.hazardOver, State.hazard, h.free, e]⟩
    rw [this] at h3
    cases h3
  have a2 : settleOnce u = some ((s1.withPort s.port).replied line code r) := by
    have c1 : u.softResetDue = false := by
      simpa [← hu, State.softResetDue, q1, q8] using h1
    have c2 : u.canReleaseWrite = false := by
      simp [← hu, State.canReleaseWrite]
    have c3 : u.canReleaseHazard = false := by
      simp only [← hu, State.canReleaseHazard, List.any_eq_false, State.setWrite_port, hp, State.executing]
      intro x hx
      simp [State.hazardOver, hnr x hx]
    have c4 : u.sleepSpoiled = false := by
      simpa [← hu, State.sleepSpoiled, State.unwritten, q4, q5, q7] using h4
    have c5 : u.canGrant = false := by
      simpa [← hu, State.canGrant, State.claimWaiting, State.commitClaim, Staging.hasClaim, q1, q2, q3, q4, q5, q6, q8] using h5
    have c7 : u.drainDue = false := by
      simpa [← hu, State.drainDue, State.drainCondition, State.unwritten, State.ordinaryWrite, h.free, q1, q2, q4, q5, q7, q8]
        using h7
    have c8 : u.safeDue = false := by
      simpa [← hu, State.safeDue, State.safeCondition, q1, q5, q7] using h8
    have c9 : u.canPlaceReply = true := by
      simp [← hu, State.canPlaceReply]
    simp only [settleOnce, c1, c2, c3, c4, c5, c7, c8, c9, Bool.false_eq_true, if_false, if_true]
    congr 1
    simp only [← hu, State.placeReply, State.setWrite_port, State.answerControl, State.withControl_port]
    have hfree := h.free
    have eb := length_recordBytes h.key code args
    have ew : ({ s1.port with write := none } : Port) = s.port := by
      rw [hp]
      cases hs : s.port
      simp only [hs] at hfree
      subst hfree
      simp [State.executing, hs]
    simp only [State.replied, recordAnswer, writeAnswer, controlRecord, List.length_map, eb]
    simp only [State.setWrite, State.withPort, State.withControl, State.giveAnswer, ew]
    rfl
  refine settle_two a1 a2 ?_
  refine atRest_of_quiet h.rest h.free rfl ⟨q1, q2, q3, q4, q5, q6, q7, ?_⟩
  simpa [State.replied] using q8

end Sys2Proof.Machine
end

