-- ==== Sys2Proof/Laws/Commands.lean ====
section
/-! SUPPORT. Each code of Table 11-4 runs its command with the arguments the record was built from, and each argument code of Table 11-1 is read back. -/

namespace Sys2Proof.Machine

/-! ### Codes read back (Table 11-1) -/

@[simp] theorem kindArg_code (k : RuleKind) : kindArg k.code = some k := by cases k <;> rfl
@[simp] theorem appliesArg_code (a : AppliesTo) : appliesArg a.code = some a := by cases a <;> rfl
@[simp] theorem actionArg_code (a : RuleAction) : actionArg a.code = some a := by cases a <;> rfl
@[simp] theorem targetArg_code (t : Option QueueName) : targetArg (targetCode t) = some t := by
  rcases t with _ | q
  · rfl
  · cases q <;> rfl
@[simp] theorem queueArg_code (q : QueueName) : queueArg (targetCode (some q)) = some q := by cases q <;> rfl
@[simp] theorem modeArg_code (m : QueueMode) : modeArg m.code = some m := by cases m <;> rfl
@[simp] theorem lockArg_code (l : LockState) : lockArg l.code = some l := by cases l <;> rfl
@[simp] theorem sideArg_code (x : FenceSide) : sideArg x.code = some x := by cases x <;> rfl
@[simp] theorem groupArg_code (g : FuseGroup) : groupArg g.code = some g := by cases g <;> rfl
@[simp] theorem boolArg_yesNo (b : Bool) : boolArg (yesNo b) = some b := by cases b <;> rfl

/-! ### A code runs its command (R169, Table 11-4) -/

section
variable (s : State) (room : Nat)

theorem execCode_identify (a : List Byte) : execCode room 0x01 a s = cmdIdentify s := rfl

theorem execCode_readStatus (x : Byte) : execCode room 0x02 (padTo 53 [x]) s = cmdReadStatus room x s := rfl

theorem execCode_softReset (x : Byte) : execCode room 0x03 (padTo 53 [x]) s = cmdSoftReset x s := rfl

theorem execCode_setTiming (t : TimingSettings) :
    execCode room 0x10 (padTo 53 (timingBytes t)) s = cmdSetTiming t s := by
  show cmdSetTiming (timingArg _) s = _
  rw [timingArg_timingBytes]

theorem execCode_clearEvents (x : BitVec 32) :
    execCode room 0x11 (padTo 53 (le4 x.toNat)) s = cmdClearEvents x s := by
  show cmdClearEvents (word _ 0) s = _
  rw [word_padTo (by simp [le4]), word_le4]

theorem execCode_setEventEnables (x : BitVec 32) :
    execCode room 0x12 (padTo 53 (le4 x.toNat)) s = cmdSetEventEnables x s := by
  show cmdSetEventEnables (word _ 0) s = _
  rw [word_padTo (by simp [le4]), word_le4]

theorem execCode_setRule (r : RuleArgs) : execCode room 0x20 (padTo 53 (ruleArgBytes r)) s = cmdSetRule r s := by
  show cmdSetRule (ruleArg _) s = _
  rw [ruleArg_ruleArgBytes]

theorem execCode_readRule (x : Byte) : execCode room 0x21 (padTo 53 [x]) s = cmdReadRule x s := rfl

theorem execCode_setDefault (x y : Byte) : execCode room 0x22 (padTo 53 [x, y]) s = cmdSetDefault x y s := rfl

theorem execCode_setFence (x y z : Byte) : execCode room 0x23 (padTo 53 [x, y, z]) s = cmdSetFence x y z s := rfl

theorem execCode_setLock (x : Byte) : execCode room 0x24 (padTo 53 [x]) s = cmdSetLock x s := rfl

theorem execCode_setQueue (x y z : Byte) : execCode room 0x30 (padTo 53 [x, y, z]) s = cmdSetQueue x y z s := rfl

theorem execCode_fetchCapture (x y : Byte) :
    execCode room 0x31 (padTo 53 [x, y]) s = cmdFetchCapture room x y s := rfl

theorem execCode_ackCapture (x : Byte) (n : BitVec 32) :
    execCode room 0x32 (padTo 53 (x :: le4 n.toNat)) s = cmdAckCapture x n s := by
  show cmdAckCapture (byteAt _ 0) (word _ 1) s = _
  rw [word_padTo (by simp [le4]), byteAt_padTo (by simp [le4]), word_cons_le4]
  rfl

theorem execCode_fetchSlot (x : Byte) : execCode room 0x33 (padTo 53 [x]) s = cmdFetchSlot x s := rfl

theorem execCode_releaseSlot (x : Byte) : execCode room 0x34 (padTo 53 [x]) s = cmdReleaseSlot x s := rfl

theorem execCode_flush (x : Byte) (n : Half) :
    execCode room 0x40 (padTo 53 (x :: le2 n.toNat)) s = cmdFlush x n s := by
  show cmdFlush (byteAt _ 0) (half _ 1) s = _
  rw [half_padTo (by simp [le2]), byteAt_padTo (by simp [le2]), half_cons_le2]
  rfl

theorem execCode_listFaults (a : List Byte) : execCode room 0x41 a s = cmdListFaults room s := rfl

theorem execCode_faultRetry (n : Half) : execCode room 0x42 (padTo 53 (le2 n.toNat)) s = cmdFaultRetry n s := by
  show cmdFaultRetry (half _ 0) s = _
  rw [half_padTo (by simp [le2]), half_le2]

theorem execCode_faultDiscard (n : Half) :
    execCode room 0x43 (padTo 53 (le2 n.toNat)) s = cmdFaultDiscard n s := by
  show cmdFaultDiscard (half _ 0) s = _
  rw [half_padTo (by simp [le2]), half_le2]

theorem execCode_setFlashPolicy (p : PolicyArgs) :
    execCode room 0x50 (padTo 53 (policyArgBytes p)) s = cmdSetFlashPolicy p s := by
  show cmdSetFlashPolicy (policyArg _) s = _
  rw [policyArg_policyArgBytes]

theorem execCode_sleep (a : List Byte) : execCode room 0x60 a s = cmdSleep s := rfl

theorem execCode_wake (a : List Byte) : execCode room 0x61 a s = cmdWake s := rfl

theorem execCode_setPowerPolicy (x y z : Byte) :
    execCode room 0x62 (padTo 53 [x, y, z]) s = cmdSetPowerPolicy x y z s := rfl

theorem execCode_programFuse (x y z : Byte) (d : List Byte) :
    execCode room 0x70 (padTo 53 (x :: y :: z :: d)) s = cmdProgramFuse x y z (padTo 50 d) s := by
  have e : padTo 53 (x :: y :: z :: d) = x :: y :: z :: padTo 50 d := by
    simp only [padTo, List.cons_append, List.take_succ_cons]
    congr 3
    rw [List.take_append, List.take_append, List.take_replicate, List.take_replicate]
    congr 2
    omega
  rw [e]
  rfl

theorem execCode_lockFuse (x : Byte) : execCode room 0x71 (padTo 53 [x]) s = cmdLockFuse x s := rfl

theorem execCode_unknown (c : Byte) (a : List Byte) (h : commandCodes.contains c = false) :
    execCode room c a s = cmdUnknown s := by
  unfold execCode
  have hn : ∀ k : Byte, k ∈ commandCodes → c.toNat ≠ k.toNat := by
    intro k hk e
    have : c = k := BitVec.eq_of_toNat_eq e
    subst this
    simp at h
    exact h hk
  simp only [commandCodes, List.mem_cons, List.mem_nil_iff, or_false, forall_eq_or_imp, forall_eq] at hn
  simp at hn
  split
  all_goals first | (exfalso; omega) | rfl

end

end Sys2Proof.Machine
end

