-- ==== Sys2Proof/Laws/Events.lean ====
section
/-! SUPPORT. What every command and every step keeps: a property that each effect of an event keeps is kept by the whole. And a tick that brings no expiry. -/

namespace Sys2Proof.Machine

/-- What makes a property a law of the part: each effect keeps it, under the condition in which the effect is made. -/
structure Kept (P : State → Prop) : Prop where
  clearOut : ∀ s, P s → P s.clearOut
  pending : ∀ s q, P s → P (s.withPending q)
  guard : ∀ s g, P s → P (s.setGuard g)
  presentRead : ∀ s line o n, P s → P (s.presentRead line o n)
  presentWrite : ∀ s req, P s → P (s.presentWrite req)
  softReset : ∀ s, P s → s.softResetDue = true → P s.softResetEffect
  release : ∀ s, P s → s.canReleaseWrite = true → P s.releaseWrite
  hazards : ∀ s, P s → P s.releaseHazards
  withdraw : ∀ s, P s → P s.withdrawSleep
  grant : ∀ s, P s → s.canGrant = true → P s.grantNext
  answer : ∀ s, P s → s.canAnswer = true → P s.answerOldest
  drain : ∀ s, P s → s.drainDue = true → P s.completeDrain
  safe : ∀ s, P s → s.safeDue = true → P s.enterSafe
  reply : ∀ s, P s → s.canPlaceReply = true → P s.placeReply
  read : ∀ s, P s → s.canAcceptRead = true → P s.acceptNextRead
  write : ∀ s, P s → s.canAcceptWrite = true → P s.acceptNextWrite
  completeRead : ∀ s bytes, P s → P (s.completeRead bytes)
  pollStatus : ∀ s st, P s → P (s.pollStatus st)
  deferred : ∀ s, P s → P s.deferredDue
  suspendLimit : ∀ s st, P s → P (s.suspendLimit st)
  timeLimit : ∀ s, P s → P s.timeLimit
  wakeEnd : ∀ s st, P s → P (s.wakeEndDue st)
  startupLimit : ∀ s, P s → P s.startupLimitDue
  hold : ∀ s, P s → P s.holdExpired
  idle : ∀ s i, P s → P (s.idleExpired i)
  age : ∀ s i, P s → P (s.ageExpired i)
  stale : ∀ s q, P s → P (s.staleExpired q)
  drainExpired : ∀ s, P s → P s.drainExpired
  overlay : ∀ s, P s → P s.overlayExpired
  increment : ∀ s, P s → P s.increment
  tickPoll : ∀ s st, P s → P (s.tickPoll st)
  subTick : ∀ s n, P s → P (s.withTime { s.time with subTick := n })
  draw : ∀ s, P s → P s.draw
  fuses : ∀ s failed, P s → P (s.completeFuses failed)
  high : ∀ s, P s → P s.pwrwarnHigh
  low : ∀ s, P s → P s.pwrwarnLow

variable {P : State → Prop}

/-- The answer of the oldest read, with the acceptance it makes room for, keeps a law. -/
theorem Kept.answerInTurn (k : Kept P) {s : State} (h : P s) (c : s.canAnswer = true) : P s.answerInTurn := by
  have ha := k.answer s h c
  unfold State.answerInTurn
  simp only
  split
  · exact k.read _ ha ‹_›
  · exact ha

/-- One effect of the settling keeps a law. -/
theorem Kept.one (k : Kept P) {s s' : State} (h : P s) (e : settleOnce s = some s') : P s' :=
  settleOnce_keeps e (k.softReset s h) (k.release s h) (fun _ => k.hazards s h) (fun _ => k.withdraw s h) (k.grant s h)
    (k.answerInTurn h) (k.drain s h) (k.safe s h) (k.reply s h) (k.read s h) (k.write s h)

theorem Kept.settle (k : Kept P) {s : State} (h : P s) : P (settle s) := settle_keeps (fun _ _ h e => k.one h e) h

theorem Kept.event (k : Kept P) {body : State → State} {s : State} (h : P s) (hb : ∀ s, P s → P (body s)) :
    P (event body s) := k.settle (hb _ (k.clearOut _ h))

theorem foldl_preserves {α : Type} {f : State → α → State} (hf : ∀ s a, P s → P (f s a)) :
    ∀ (l : List α) (s : State), P s → P (l.foldl f s)
  | [], _, h => h
  | a :: l, s, h => foldl_preserves hf l _ (hf s a h)

/-- The expiries a tick takes keep a law. -/
theorem Kept.takeDue (k : Kept P) (st : Byte) {s : State} (h : P s) : P (takeDue st s) := by
  unfold Machine.takeDue takeEntryExpiries
  refine k.overlay _ (k.drainExpired _ (k.stale _ .b (k.stale _ .a ?_)))
  refine foldl_preserves (fun s i hs => k.age _ i (k.idle s i hs)) _ _ ?_
  exact k.hold _ (k.startupLimit _ (k.deferred _ (k.timeLimit _ (k.suspendLimit _ st (k.wakeEnd _ st h)))))

theorem Kept.tickBody (k : Kept P) (st : Byte) {s : State} (h : P s) : P (tickBody st s) :=
  k.takeDue st (k.tickPoll _ st (k.increment _ h))

theorem Kept.microsecond (k : Kept P) {s : State} (h : P s) : P s.microsecond := by
  unfold State.microsecond
  split
  · split
    · exact k.subTick s _ h
    · exact k.draw _ (k.tickBody _ h)
  · exact h

theorem Kept.record (k : Kept P) {s : State} (h : P s) (line : Addr) (code : Byte) (args : List Byte) :
    P (s.presentRecord line code args) := k.presentWrite s _ h

/-- The outcome of a command that is a next state is that state. -/
theorem next_inj {s t : State} (h : (Host.Outcome.next s : Host.Outcome State Fault Refusal) = .next t) : s = t :=
  Host.Outcome.next.inj h

/-- A law that the effects keep is kept by every command that does not restart the part. -/
theorem Kept.command (k : Kept P) {c : Instr} {s t : State} (r : c.restarts = false) (h : P s) (e : exec c s = .next t) : P t := by
  cases c
  case powerOn => cases r
  case powerLoss => cases r
  case resetPinAssertion => cases r
  case resetPinRelease => cases r
  all_goals (replace e := next_inj e; subst e; refine k.event h fun s h => ?_)
  case readRequest => exact k.presentRead _ _ _ _ h
  case writeRequest => exact k.presentWrite _ _ (k.guard _ _ h)
  case readAnswer =>
    split
    · exact k.answer _ h ‹_›
    · exact h
  case hazardRelease => exact k.hazards _ h
  case writeRelease =>
    split
    · exact k.release _ h ‹_›
    · exact h
  case grant =>
    split
    · exact k.grant _ h ‹_›
    · exact h
  case readComplete => exact k.completeRead _ _ h
  case operationComplete => exact k.pollStatus _ _ h
  case suspensionComplete => exact k.pollStatus _ _ h
  case resumeBusy => exact k.pollStatus _ _ h
  case deferredSuspension => exact k.deferred _ h
  case suspendLimitExpiry => exact k.suspendLimit _ _ h
  case timeLimitExpiry => exact k.timeLimit _ h
  case tick =>
    unfold State.oneTick
    split
    · exact k.tickBody _ h
    · exact h
  case idleTimerExpiry => exact k.idle _ _ h
  case ageTimerExpiry => exact k.age _ _ h
  case holdTimerExpiry => exact k.hold _ h
  case staleTimerExpiry => exact k.stale _ _ h
  case drainTimerExpiry => exact k.drainExpired _ h
  case replyLifetimeExpiry => exact k.overlay _ h
  case wakeEnd => exact k.wakeEnd _ _ h
  case startupWaitLimit => exact k.startupLimit _ h
  case pwrwarnAssertion => exact k.high _ h
  case pwrwarnDeassertion => exact k.low _ h
  case drainCompletion =>
    split
    · exact k.drain _ h ‹_›
    · exact h
  case safeConditionMet =>
    split
    · exact k.safe _ h ‹_›
    · exact h
  case softResetTakesEffect =>
    split
    · exact k.softReset _ h ‹_›
    · exact h
  case fuseProgrammingCompletion => exact k.fuses _ _ h
  all_goals first | exact k.record h _ _ _ | exact k.record (k.guard _ _ h) _ _ _

/-- A law that the effects keep and the restarts establish is kept by every step. -/
theorem Kept.everyStep (k : Kept P) {s t : State} (h : P s)
    (restart : ∀ (c : Instr) (s t : State), P s → c.restarts = true → exec c s = .next t → P t) (e : step s = .next t) :
    P t := by
  unfold step at e
  split at e
  · replace e := next_inj e
    subst e
    exact k.event h fun s h => k.microsecond h
  · rename_i c rest hp
    have hq := k.pending s rest h
    by_cases r : c.restarts = true
    · exact restart c _ t hq r e
    · exact k.command (by simpa using r) hq e

/-! ### A tick that brings no expiry -/

theorem timerDue_ne {now : Tick} {t : Option Tick} (h : t ≠ some now) : timerDue now t = false := by
  cases t <;> simp_all [timerDue]

/-- Where nothing falls due at the next increment, taking the expiries of that increment changes nothing. -/
theorem takeDue_of_noneDue {s : State} (h : s.NoneDue) (st : Byte) :
    takeDue st s.clearOut.increment = s.clearOut.increment := by
  have now : s.clearOut.increment.now = s.now + 1 := rfl
  have seq : s.clearOut.increment.seq.st = s.seq.st.grow := rfl
  generalize hx : s.clearOut.increment = x at *
  have wake : x.wakeEndDue st = x := by
    unfold State.wakeEndDue
    rw [seq, now]
    have := h.wake
    cases e : s.seq.st <;> simp_all [SeqState.grow]
  have suspend : x.suspendLimit st = x := by
    unfold State.suspendLimit
    rw [seq, now]
    have := h.suspend
    cases e : s.seq.st <;> simp_all [SeqState.grow]
  have startup : x.startupLimitDue = x := by
    unfold State.startupLimitDue
    rw [seq, now]
    have := h.startup
    cases e : s.seq.st <;> simp_all [SeqState.grow]
  have limit : x.timeLimit = x := by
    unfold State.timeLimit
    rw [seq]
    have grown (op : FlashOp) (l : op.busyTicks + 1 < op.timeLimit) : op.grow.busyTicks < op.grow.timeLimit := by
      unfold FlashOp.grow
      split
      · exact l
      · omega
    have := h.limit
    cases e : s.seq.st <;> simp_all [SeqState.grow, SeqState.counting?]
  have deferred : x.deferredDue = x := by
    unfold State.deferredDue
    rw [now, timerDue_ne (by subst hx; exact h.deferred)]; rfl
  have hold : x.holdExpired = x := by
    unfold State.holdExpired
    split
    · rename_i w e
      split
      · rename_i c hc; rw [now, timerDue_ne (h.hold w c (by subst hx; exact e) hc)]; rfl
      · rfl
    · rfl
  have idle (i : Nat) : x.idleExpired i = x := by
    unfold State.idleExpired
    rw [now, timerDue_ne (by subst hx; exact h.idle i)]; rfl
  have age (i : Nat) : x.ageExpired i = x := by
    unfold State.ageExpired
    rw [now, timerDue_ne (by subst hx; exact h.age i)]; rfl
  have entries : takeEntryExpiries x = x := by
    unfold takeEntryExpiries
    induction List.range Config.entryCount with
    | nil => rfl
    | cons i r ih => rw [List.foldl_cons, idle, age, ih]
  have stale (q : QueueName) : x.staleExpired q = x := by
    unfold State.staleExpired
    rw [now, timerDue_ne (by subst hx; exact h.stale q)]; rfl
  have drain : x.drainExpired = x := by
    unfold State.drainExpired
    split
    · rename_i c
      rw [now, timerDue_ne (by subst hx; exact h.drain c.1)] at c
      simp at c
    · rfl
  have reply : x.overlayExpired = x := by
    unfold State.overlayExpired
    split
    · rename_i o e; rw [now, if_neg (h.reply o (by subst hx; exact e))]
    · rfl
  unfold takeDue
  simp only [wake, suspend, limit, deferred, startup, hold, entries, stale, drain, reply]

end Sys2Proof.Machine
end

