-- ==== Sys2Proof/Laws/Image.lean ====
section
/-! SUPPORT. Sector images: reading after writing, the canonical form and what keeps it, and the derived properties in the spec's words (R4, R5). -/

namespace Sys2Proof.Machine

/-! ### The canonical form -/

theorem imgWfFrom_mono {lo lo' : Nat} (h : lo' ≤ lo) : ∀ {img : Image}, imgWfFrom lo img = true → imgWfFrom lo' img = true
  | [], _ => rfl
  | (a, b) :: r, hw => by
    simp only [imgWfFrom, Bool.and_eq_true, decide_eq_true_eq] at hw ⊢
    exact ⟨⟨⟨by omega, hw.1.1.2⟩, hw.1.2⟩, hw.2⟩

/-- An offset below the first listed one reads FFH. -/
theorem imgRead_below : ∀ {img : Image} {lo k : Nat}, imgWfFrom lo img = true → k < lo → imgRead img k = 0xFF
  | [], _, _, _, _ => rfl
  | (a, b) :: r, lo, k, hw, hk => by
    simp only [imgWfFrom, Bool.and_eq_true, decide_eq_true_eq] at hw
    rw [imgRead, if_neg (by omega)]
    exact imgRead_below hw.2 (by omega)

/-- Every listed offset of a canonical image lies in the sector. -/
theorem imgWf_bound : ∀ {img : Image} {lo : Nat} {c : Host.Cell}, imgWfFrom lo img = true → c ∈ img →
    lo ≤ c.1 ∧ c.1 < Config.sectorBytes
  | [], _, _, _, h => by cases h
  | (a, b) :: r, lo, c, hw, h => by
    simp only [imgWfFrom, Bool.and_eq_true, decide_eq_true_eq] at hw
    rcases List.mem_cons.mp h with h | h
    · subst h; exact ⟨hw.1.1.1, hw.1.1.2⟩
    · have := imgWf_bound hw.2 h; exact ⟨by omega, this.2⟩

/-- A canonical image lists exactly the offsets that do not read FFH. -/
theorem imgRead_ne_iff_mem : ∀ {img : Image} {lo k : Nat}, imgWfFrom lo img = true →
    (imgRead img k ≠ 0xFF ↔ ∃ c ∈ img, c.1 = k)
  | [], _, _, _ => by simp [imgRead]
  | (a, b) :: r, lo, k, hw => by
    simp only [imgWfFrom, Bool.and_eq_true, decide_eq_true_eq] at hw
    by_cases hk : a = k
    · subst hk
      simp only [imgRead, if_pos, List.mem_cons]
      exact ⟨fun _ => ⟨_, Or.inl rfl, rfl⟩, fun _ => hw.1.2⟩
    · rw [imgRead, if_neg hk, imgRead_ne_iff_mem hw.2]
      constructor
      · rintro ⟨c, hc, e⟩; exact ⟨c, List.mem_cons_of_mem _ hc, e⟩
      · rintro ⟨c, hc, e⟩
        rcases List.mem_cons.mp hc with hc | hc
        · subst hc; exact absurd e hk
        · exact ⟨c, hc, e⟩

/-- Two canonical images that read alike are the same list. -/
theorem img_ext : ∀ {x y : Image} {lo lo' : Nat}, imgWfFrom lo x = true → imgWfFrom lo' y = true →
    (∀ k, imgRead x k = imgRead y k) → x = y
  | [], [], _, _, _, _, _ => rfl
  | [], (a, b) :: r, _, _, _, hy, h => by
    simp only [imgWfFrom, Bool.and_eq_true, decide_eq_true_eq] at hy
    have := h a
    simp only [imgRead, if_pos] at this
    exact absurd this.symm hy.1.2
  | (a, b) :: r, [], _, _, hx, _, h => by
    simp only [imgWfFrom, Bool.and_eq_true, decide_eq_true_eq] at hx
    have := h a
    simp only [imgRead, if_pos] at this
    exact absurd this hx.1.2
  | (a, b) :: r, (a', b') :: r', _, _, hx, hy, h => by
    simp only [imgWfFrom, Bool.and_eq_true, decide_eq_true_eq] at hx hy
    have key : a = a' := by
      rcases Nat.lt_trichotomy a a' with l | l | l
      · have := h a
        rw [imgRead, if_pos rfl, imgRead, if_neg (by omega), imgRead_below hy.2 (by omega)] at this
        exact absurd this hx.1.2
      · exact l
      · have := h a'
        rw [imgRead, if_neg (by omega), imgRead_below hx.2 (by omega), imgRead, if_pos rfl] at this
        exact absurd this.symm hy.1.2
    subst key
    have hb : b = b' := by simpa [imgRead] using h a
    subst hb
    congr 1
    refine img_ext hx.2 hy.2 fun k => ?_
    by_cases hk : a = k
    · subst hk; rw [imgRead_below hx.2 (by omega), imgRead_below hy.2 (by omega)]
    · simpa [imgRead, hk] using h k

/-! ### Reading after writing -/

theorem imgRead_imgWrite : ∀ {img : Image} {lo : Nat} (k : Nat) (v : Byte) (j : Nat), imgWfFrom lo img = true →
    imgRead (imgWrite img k v) j = if j = k then v else imgRead img j
  | [], _, k, v, j, _ => by
    unfold imgWrite
    split
    · rename_i hv
      by_cases hj : j = k
      · rw [if_pos hj, hv]; rfl
      · rw [if_neg hj]
    · by_cases hj : j = k
      · rw [if_pos hj, imgRead, if_pos hj.symm]
      · rw [if_neg hj]; simp [imgRead, Ne.symm hj]
  | (a, b) :: r, lo, k, v, j, hw => by
    have hw' := hw
    simp only [imgWfFrom, Bool.and_eq_true, decide_eq_true_eq] at hw
    have ih := imgRead_imgWrite k v j hw.2
    unfold imgWrite
    split
    · rename_i hk
      split
      · rename_i hv
        by_cases hj : j = k
        · subst hj; rw [if_pos rfl, imgRead, if_neg (by omega), imgRead_below hw.2 (by omega), hv]
        · rw [if_neg hj]
      · rw [imgRead]
        by_cases hj : j = k
        · rw [if_pos hj.symm, if_pos hj]
        · rw [if_neg (Ne.symm hj), if_neg hj]
    · rename_i hk
      split
      · rename_i hka
        split
        · rename_i hv
          by_cases hj : j = k
          · subst hj; rw [if_pos rfl, hv, imgRead_below hw.2 (by omega)]
          · rw [if_neg hj, imgRead, if_neg (by omega)]
        · by_cases hj : j = k
          · rw [if_pos hj, imgRead, if_pos hj.symm]
          · rw [if_neg hj, imgRead, imgRead, if_neg (Ne.symm hj), if_neg (by omega)]
      · rename_i hka
        rw [imgRead, imgRead]
        by_cases hja : a = j
        · rw [if_pos hja, if_neg (by omega), if_pos hja]
        · rw [if_neg hja, ih, if_neg hja]

theorem imgWfFrom_imgWrite : ∀ {img : Image} {lo : Nat} {k : Nat} {v : Byte}, imgWfFrom lo img = true → lo ≤ k →
    k < Config.sectorBytes → imgWfFrom lo (imgWrite img k v) = true
  | [], _, k, v, _, h1, h2 => by
    unfold imgWrite
    split
    · rfl
    · rename_i hv
      simp only [imgWfFrom, Bool.and_true, Bool.and_eq_true, decide_eq_true_eq]
      exact ⟨⟨h1, h2⟩, hv⟩
  | (a, b) :: r, lo, k, v, hw, h1, h2 => by
    have hw' := hw
    simp only [imgWfFrom, Bool.and_eq_true, decide_eq_true_eq] at hw
    unfold imgWrite
    split
    · rename_i hk
      split
      · exact hw'
      · rename_i hv
        simp only [imgWfFrom, Bool.and_eq_true, decide_eq_true_eq]
        exact ⟨⟨⟨h1, h2⟩, hv⟩, ⟨⟨⟨by omega, hw.1.1.2⟩, hw.1.2⟩, hw.2⟩⟩
    · rename_i hk
      split
      · rename_i hka
        split
        · exact imgWfFrom_mono (by omega) hw.2
        · rename_i hv
          subst hka
          simp only [imgWfFrom, Bool.and_eq_true, decide_eq_true_eq]
          exact ⟨⟨⟨h1, h2⟩, hv⟩, hw.2⟩
      · rename_i hka
        simp only [imgWfFrom, Bool.and_eq_true, decide_eq_true_eq]
        exact ⟨hw.1, imgWfFrom_imgWrite hw.2 (by omega) h2⟩

theorem wf_imgWrite {img : Image} {k : Nat} {v : Byte} (h : Memory.wf img = true) (hk : k < Config.sectorBytes) :
    Memory.wf (imgWrite img k v) = true := imgWfFrom_imgWrite h (Nat.zero_le _) hk

theorem read_imgWrite {img : Image} (h : Memory.wf img = true) (k : Nat) (v : Byte) (j : Nat) :
    imgRead (imgWrite img k v) j = if j = k then v else imgRead img j := imgRead_imgWrite k v j h

theorem wf_nil : Memory.wf [] = true := rfl

theorem wf_imgWriteBytes : ∀ {l : List Byte} {img : Image} {k : Nat}, Memory.wf img = true →
    k + l.length ≤ Config.sectorBytes → Memory.wf (imgWriteBytes img k l) = true
  | [], _, _, h, _ => h
  | b :: l, img, k, h, hk => by
    simp only [List.length_cons] at hk
    exact wf_imgWriteBytes (l := l) (wf_imgWrite h (by omega)) (by omega)

theorem read_imgWriteBytes : ∀ {l : List Byte} {img : Image} {k : Nat} (j : Nat), Memory.wf img = true →
    k + l.length ≤ Config.sectorBytes →
    imgRead (imgWriteBytes img k l) j = if k ≤ j ∧ j < k + l.length then l.getD (j - k) 0xFF else imgRead img j
  | [], img, k, j, _, _ => by rw [imgWriteBytes, if_neg (by simp)]
  | b :: l, img, k, j, h, hk => by
    simp only [List.length_cons] at hk
    rw [imgWriteBytes, read_imgWriteBytes j (wf_imgWrite h (by omega)) (by omega), read_imgWrite h]
    by_cases hj : j = k
    · subst hj
      rw [if_neg (by omega), if_pos rfl, if_pos (by simp)]
      simp
    · by_cases hin : k + 1 ≤ j ∧ j < k + 1 + l.length
      · rw [if_pos hin, if_pos (by simp only [List.length_cons]; omega)]
        rw [show j - k = (j - (k + 1)) + 1 by omega]
        simp
      · rw [if_neg hin, if_neg hj, if_neg (by simp only [List.length_cons]; omega)]

theorem wf_imgMerge : ∀ {l : List (Option Byte)} {img : Image} {k : Nat}, Memory.wf img = true →
    k + l.length ≤ Config.sectorBytes → Memory.wf (imgMerge img k l) = true
  | [], _, _, h, _ => h
  | none :: l, img, k, h, hk => by
    simp only [List.length_cons] at hk
    exact wf_imgMerge (l := l) h (by omega)
  | some b :: l, img, k, h, hk => by
    simp only [List.length_cons] at hk
    exact wf_imgMerge (l := l) (wf_imgWrite h (by omega)) (by omega)

/-- A merge writes each selected byte and leaves every other byte as it was (R11). -/
theorem read_imgMerge : ∀ {l : List (Option Byte)} {img : Image} {k : Nat} (j : Nat), Memory.wf img = true →
    k + l.length ≤ Config.sectorBytes →
    imgRead (imgMerge img k l) j =
      if k ≤ j then (match l[j - k]? with | some (some v) => v | _ => imgRead img j) else imgRead img j
  | [], img, k, j, _, _ => by simp [imgMerge]
  | none :: l, img, k, j, h, hk => by
    simp only [List.length_cons] at hk
    rw [imgMerge, read_imgMerge (l := l) j h (by omega)]
    by_cases hj : k + 1 ≤ j
    · rw [if_pos hj, if_pos (by omega), show j - k = (j - (k + 1)) + 1 by omega]
      simp
    · rw [if_neg hj]
      by_cases hk' : k ≤ j
      · have : j = k := by omega
        subst this; simp
      · rw [if_neg hk']
  | some b :: l, img, k, j, h, hk => by
    simp only [List.length_cons] at hk
    rw [imgMerge, read_imgMerge (l := l) j (wf_imgWrite h (by omega)) (by omega), read_imgWrite h]
    by_cases hj : k + 1 ≤ j
    · rw [if_pos hj, if_pos (show k ≤ j by omega), show j - k = (j - (k + 1)) + 1 by omega,
        if_neg (show ¬ j = k by omega)]
      simp
    · rw [if_neg hj]
      by_cases hk' : j = k
      · subst hk'; simp
      · rw [if_neg hk', if_neg (by omega)]

theorem wf_foldl_imgWrite (f : Nat → Byte) : ∀ {l : List Nat} {img : Image}, Memory.wf img = true →
    (∀ k ∈ l, k < Config.sectorBytes) → Memory.wf (l.foldl (fun i k => imgWrite i k (f k)) img) = true
  | [], _, h, _ => h
  | k :: l, img, h, hk => by
    rw [List.foldl_cons]
    exact wf_foldl_imgWrite f (wf_imgWrite h (hk k List.mem_cons_self)) fun j hj => hk j (List.mem_cons_of_mem _ hj)

theorem read_foldl_imgWrite (f : Nat → Byte) : ∀ {l : List Nat} {img : Image} (j : Nat), Memory.wf img = true →
    (∀ k ∈ l, k < Config.sectorBytes) →
    imgRead (l.foldl (fun i k => imgWrite i k (f k)) img) j = if j ∈ l then f j else imgRead img j
  | [], _, j, _, _ => by simp
  | k :: l, img, j, h, hk => by
    rw [List.foldl_cons, read_foldl_imgWrite f j (wf_imgWrite h (hk k List.mem_cons_self))
      fun i hi => hk i (List.mem_cons_of_mem _ hi), read_imgWrite h]
    by_cases hl : j ∈ l
    · simp [hl]
    · by_cases hj : j = k <;> simp [hl, hj]

/-- The working image at fill completion keeps the canonical form. -/
theorem wf_filledWork {d : Sector} {w : List Nat} (h : Memory.wf d.base = true)
    (hw : ∀ k ∈ w, k < Config.sectorBytes) : Memory.wf (filledWork d w) = true := wf_foldl_imgWrite _ h hw

/-- At fill completion a written offset keeps its byte and every other takes the base byte (R25). -/
theorem read_filledWork {d : Sector} {w : List Nat} (j : Nat) (h : Memory.wf d.base = true)
    (hw : ∀ k ∈ w, k < Config.sectorBytes) :
    imgRead (filledWork d w) j = if j ∈ w then imgRead d.work j else imgRead d.base j :=
  read_foldl_imgWrite _ j h hw

/-! ### The derived properties in the spec's words -/

theorem byteDiffers_mem {d : Sector} {k : Nat} (hb : Memory.wf d.base = true) (hw : Memory.wf d.work = true)
    (h : byteDiffers d k = true) : ∃ c ∈ d.base ++ d.work, c.1 = k := by
  simp only [byteDiffers, bne_iff_ne] at h
  by_cases e : imgRead d.base k = 0xFF
  · obtain ⟨c, hc, e'⟩ := (imgRead_ne_iff_mem hw).mp (e ▸ h)
    exact ⟨c, List.mem_append_right _ hc, e'⟩
  · obtain ⟨c, hc, e'⟩ := (imgRead_ne_iff_mem hb).mp e
    exact ⟨c, List.mem_append_left _ hc, e'⟩

/-- Page `p` is dirty exactly when a working byte of it differs from the base byte (R4). -/
theorem pageDirty_iff {d : Sector} (hb : Memory.wf d.base = true) (hw : Memory.wf d.work = true) (p : Nat) :
    pageDirty d p = true ↔ ∃ k, k / Config.pageBytes = p ∧ imgRead d.work k ≠ imgRead d.base k := by
  simp only [pageDirty, List.any_eq_true, Bool.and_eq_true, beq_iff_eq]
  constructor
  · rintro ⟨c, _, e, h⟩; exact ⟨c.1, e, by simpa [byteDiffers] using h⟩
  · rintro ⟨k, e, h⟩
    have hd : byteDiffers d k = true := by simpa [byteDiffers] using h
    obtain ⟨c, hc, e'⟩ := byteDiffers_mem hb hw hd
    exact ⟨c, hc, e' ▸ e, e' ▸ hd⟩

/-- The offsets at which two canonical images differ lie in the sector. -/
theorem differs_bound {d : Sector} (hb : Memory.wf d.base = true) (hw : Memory.wf d.work = true) {k : Nat}
    (h : imgRead d.work k ≠ imgRead d.base k) : k < Config.sectorBytes := by
  obtain ⟨c, hc, e⟩ := byteDiffers_mem hb hw (by simpa [byteDiffers] using h)
  rcases List.mem_append.mp hc with hc | hc
  · exact e ▸ (imgWf_bound hb hc).2
  · exact e ▸ (imgWf_bound hw hc).2

theorem mem_dirtyPages {d : Sector} {p : Nat} : p ∈ dirtyPages d ↔ p < Config.sectorPages ∧ pageDirty d p = true := by
  simp [dirtyPages]

/-- There is a dirty page exactly when the images differ somewhere (R4). -/
theorem hasDirty_iff {d : Sector} (hb : Memory.wf d.base = true) (hw : Memory.wf d.work = true) :
    hasDirty d = true ↔ ∃ k, imgRead d.work k ≠ imgRead d.base k := by
  have : hasDirty d = true ↔ ∃ p, p ∈ dirtyPages d := by
    simp only [hasDirty, Bool.not_eq_true', List.isEmpty_eq_false_iff_exists_mem]
  rw [this]
  constructor
  · rintro ⟨p, hp⟩
    obtain ⟨k, _, h⟩ := (pageDirty_iff hb hw p).mp (mem_dirtyPages.mp hp).2
    exact ⟨k, h⟩
  · rintro ⟨k, h⟩
    have hk := differs_bound hb hw h
    refine ⟨k / Config.pageBytes, mem_dirtyPages.mpr ⟨?_, (pageDirty_iff hb hw _).mpr ⟨k, rfl, h⟩⟩⟩
    simp only [Config.sectorBytes] at hk
    simp only [Config.pageBytes, Config.sectorPages]
    omega

/-- Canonical images without a dirty page are the same list (R3). -/
theorem work_eq_base {d : Sector} (hb : Memory.wf d.base = true) (hw : Memory.wf d.work = true)
    (h : hasDirty d = false) : d.work = d.base := by
  refine img_ext hw hb fun k => ?_
  by_contra e
  have := (hasDirty_iff hb hw).mpr ⟨k, e⟩
  simp [h] at this

theorem hasDirty_of_eq {d : Sector} (h : d.work = d.base) : hasDirty d = false := by
  have hp : ∀ p, pageDirty d p = false := fun p => by simp [pageDirty, byteDiffers, h]
  have : dirtyPages d = [] := by simp [dirtyPages, hp]
  simp [hasDirty, this]

end Sys2Proof.Machine
end

