-- ==== Sys2Proof/Laws/Sequencer.lean ====
section
/-! SUPPORT. What the suspension decision, the service of a completed fill and the end of a soft reset can do, each said once. -/

namespace Sys2Proof.Machine

/-- Without a waiting miss, or outside BUSY, the suspension decision changes nothing (R68). -/
theorem decideSuspension_idle {s : State} (h : s.seq.misses = [] ∨ ∀ o, s.seq.st ≠ .busy o) : s.decideSuspension = s := by
  unfold State.decideSuspension
  split
  · rename_i op e
    rcases h with h | h
    · simp [h]
    · exact absurd e (h op)
  · rfl

/-- The suspension decision for a waiting miss in BUSY (R68): nothing where a condition of policy, power state, budget or
soft reset fails; SUSPEND where the spacing has passed; else one deferred suspension. -/
theorem decideSuspension_busy {s : State} {op : FlashOp} (hb : s.seq.st = .busy op) (hm : s.seq.misses ≠ []) :
    (s.maySuspend op = false → s.decideSuspension = s) ∧
    (s.maySuspend op = true → s.spacingPassed op = true → s.decideSuspension = s.suspend op) ∧
    (s.maySuspend op = true → s.spacingPassed op = false → s.decideSuspension =
      if s.seq.deferred = none then s.withSeq { s.seq with deferred := some (s.spacingTick op) } else s) := by
  have hm' : s.seq.misses.isEmpty = false := by simpa using hm
  unfold State.decideSuspension
  simp only [hb, hm']
  refine ⟨fun h => by simp [h], fun h1 h2 => by simp [h1, h2], fun h1 h2 => ?_⟩
  cases e : s.seq.deferred <;> simp [h1, h2]

/-- A second touch in an event changes nothing (R27). -/
theorem Staging.touch_touch (g : Staging) (now : Tick) (i : Nat) : (g.touch now i).touch now i = g.touch now i := by
  unfold Staging.touch Staging.setEntry
  simp only [List.set_set]
  congr 2
  unfold Staging.entry
  by_cases h : i < g.entries.length
  · simp [h]; cases g.entries[i] <;> rfl
  · simp [h]

/-- Hits on an entry whose last-use tick is the present one change the reads alone (R27). -/
theorem foldl_hitRead (i : Nat) (d : Sector) {now : Tick} : ∀ (l : List Read) (x : State), x.now = now →
    x.staging.touch now i = x.staging →
    l.foldl (fun s r => s.hitRead r.tag i d r.req) x =
      l.foldl (fun x r => x.setStage r.tag (.resolved (.ok (spanOf d.work r.req) (.entry i)))) x
  | [], _, _, _ => rfl
  | r :: l, x, h, ht => by
    have e : x.hitRead r.tag i d r.req = x.setStage r.tag (.resolved (.ok (spanOf d.work r.req) (.entry i))) := by
      unfold State.hitRead; rw [h, ht]; rfl
    rw [List.foldl_cons, List.foldl_cons, e]
    exact foldl_hitRead i d l _ h ht

/-- The reads that waited for a fill are served, and the entry's last-use tick is set if there is one (R25 step 4, R28). -/
theorem serveFilled_eq (s : State) (i : Nat) (d : Sector) :
    let waited := s.port.reads.filter (fun r => decide (r.stage = .waitingFill) && sectorOf r.req.line == d.number)
    s.serveFilled i d = waited.foldl (fun x r => x.setStage r.tag (.resolved (.ok (spanOf d.work r.req) (.entry i))))
      (if waited = [] then s else s.withStaging (s.staging.touch s.now i)) := by
  intro waited
  show waited.foldl _ s = _
  cases h : waited with
  | nil => rfl
  | cons r rest =>
    rw [List.foldl_cons, List.foldl_cons, if_neg (by simp)]
    exact foldl_hitRead i d rest _ rfl (s.staging.touch_touch s.now i)

/-- Once an accepted soft reset finds the sequencer IDLE or STALLED, its effect is the next of the event (R80, R176). -/
theorem settleOnce_softReset {s : State} (h : s.softResetDue = true) : settleOnce s = some s.softResetEffect := by
  simp [settleOnce, h]

end Sys2Proof.Machine
end

