-- ==== Sys2Proof/Laws/Stages.lean ====
section
/-! SUPPORT. The stages of a request: each relation of Safety.lean always has a case, and a case says what the model's stage answers. -/

namespace Sys2Proof.Machine

/-- The entry that `find` names refers to the sector. -/
theorem Staging.sector_of_find {g : Staging} {n i : Nat} (h : g.find n = some i) : (g.entry i).sector? = some n := by
  unfold Staging.find at h
  rw [List.findIdx?_eq_some_iff_getElem] at h
  obtain ⟨hi, he, _⟩ := h
  simp only [Staging.entry, List.getElem?_eq_getElem hi, Option.getD_some]
  simpa using he

/-- A read always continues somewhere (R83, R88 to R90). -/
theorem Continues.total (s : State) (tag : Nat) (req : ReadReq) : ∃ x, Continues s tag req x := by
  cases h1 : s.overlayBytes req with
  | some bs => exact ⟨_, .overlay bs h1⟩
  | none =>
    by_cases b : s.power.st = .unconfigured
    · exact ⟨_, .unconfigured h1 b⟩
    cases h2 : s.staging.find (sectorOf req.line) with
    | some i =>
      cases h3 : s.staging.entry i with
      | filling d f => exact ⟨_, .filling i d f h1 b h2 h3⟩
      | free => have := Staging.sector_of_find h2; rw [h3] at this; simp [Entry.sector?, Entry.data?] at this
      | opened d _ => exact ⟨_, .hit i d h1 b h2 (by rw [h3]; rfl) (by rw [h3]; rfl)⟩
      | closed d _ => exact ⟨_, .hit i d h1 b h2 (by rw [h3]; rfl) (by rw [h3]; rfl)⟩
      | committing d _ _ => exact ⟨_, .hit i d h1 b h2 (by rw [h3]; rfl) (by rw [h3]; rfl)⟩
      | clean d => exact ⟨_, .hit i d h1 b h2 (by rw [h3]; rfl) (by rw [h3]; rfl)⟩
      | faulted d _ => exact ⟨_, .hit i d h1 b h2 (by rw [h3]; rfl) (by rw [h3]; rfl)⟩
    | none =>
      by_cases a : s.seq.st = .stalled
      · exact ⟨_, .stalled h1 b h2 a⟩
      by_cases c : s.seq.st = .asleep
      · by_cases d : s.power.st = .safe
        · exact ⟨_, .asleep h1 h2 c (Or.inl d)⟩
        by_cases e : s.power.st = .sleep
        · cases f : s.power.policy.refuseInSleep
          · exact ⟨_, .wakes h1 h2 c e f⟩
          · exact ⟨_, .asleep h1 h2 c (Or.inr ⟨e, f⟩)⟩
        · exact ⟨_, .miss h1 b h2 a (fun _ => ⟨e, d⟩)⟩
      · exact ⟨_, .miss h1 b h2 a (fun h => absurd h c)⟩

/-- Where a read continues is what the overlay stage answers. -/
theorem Continues.resolveOverlay_eq {s : State} {tag : Nat} {r : Read} {x : State} (hr : s.readOf tag = some r) (h : Continues s tag r.req x) :
    s.resolveOverlay tag = x := by
  unfold State.resolveOverlay
  simp only [hr]
  cases h with
  | overlay bs h => simp [h]
  | unconfigured h1 h2 => simp [h1, h2, State.refuseRead]
  | filling i d f h1 h0 h2 h3 => simp [h1, h0, State.resolveEntry, h2, h3]
  | hit i d h1 h0 h2 h3 h4 =>
    simp only [h1, if_neg h0, State.resolveEntry, h2]
    cases e : s.staging.entry i <;> simp_all [Entry.data?, Entry.isFilling, State.hitRead, spanOf]
  | stalled h1 h0 h2 h3 => simp [h1, h0, State.resolveEntry, h2, State.routeMiss, h3, State.refuseRead]
  | asleep h1 h2 h3 h4 =>
    rcases h4 with h4 | ⟨h4, h5⟩
    · simp [h1, State.resolveEntry, h2, State.routeMiss, h3, h4, State.refuseRead]
    · simp [h1, State.resolveEntry, h2, State.routeMiss, h3, h4, h5, State.refuseRead]
  | wakes h1 h2 h3 h4 h5 => simp [h1, State.resolveEntry, h2, State.routeMiss, h3, h4, h5, State.joinMiss]
  | miss h1 h0 h2 h3 h5 =>
    simp only [h1, if_neg h0, State.resolveEntry, h2, State.routeMiss, h3, if_false]
    cases e : s.power.st <;> simp_all [State.joinMiss]

/-- A change of one read's stage keeps the write in progress and the tags of the queue. -/
theorem setStage_keeps (s : State) (tag : Nat) (x : ReadStage) :
    (s.setStage tag x).port.write = s.port.write ∧
    (s.setStage tag x).port.reads.map (·.tag) = s.port.reads.map (·.tag) := by
  refine ⟨rfl, ?_⟩
  simp only [State.setStage, State.updateRead, State.setReads, State.withPort, List.map_map]
  refine List.map_congr_left fun r _ => ?_
  simp only [Function.comp]
  split <;> rfl

/-- Where a read continues keeps the write in progress and the tags of the queue. -/
theorem Continues.keeps {s x : State} {tag : Nat} {req : ReadReq} (h : Continues s tag req x) :
    x.port.write = s.port.write ∧ x.port.reads.map (·.tag) = s.port.reads.map (·.tag) := by
  cases h with
  | wakes => simpa using setStage_keeps s tag .miss
  | miss => simpa using setStage_keeps s tag .miss
  | hit i d => exact setStage_keeps _ tag _
  | overlay => exact setStage_keeps s tag _
  | unconfigured => exact setStage_keeps s tag _
  | filling => exact setStage_keeps s tag _
  | stalled => exact setStage_keeps s tag _
  | asleep => exact setStage_keeps s tag _

/-- A tag of the queue names a read. -/
theorem readOf_of_mem {s : State} {t : Nat} (h : t ∈ s.port.reads.map (·.tag)) : ∃ r, s.readOf t = some r := by
  obtain ⟨r, hr, e⟩ := List.mem_map.mp h
  exact Option.isSome_iff_exists.mp (by
    rw [State.readOf, List.find?_isSome]
    exact ⟨r, hr, by simpa using e⟩)

/-- Reads of the queue always continue somehow (R88). -/
theorem ContinueInTurn.total : ∀ (l : List Read) (s : State), (∀ r ∈ l, r.tag ∈ s.port.reads.map (·.tag)) →
    ∃ x, ContinueInTurn s l x
  | [], s, _ => ⟨s, .done s⟩
  | r :: l, s, h => by
    obtain ⟨q, hq⟩ := readOf_of_mem (h r (List.mem_cons_self ..))
    obtain ⟨y, hy⟩ := Continues.total s r.tag q.req
    obtain ⟨x, hx⟩ := total l y fun t ht => hy.keeps.2 ▸ h t (List.mem_cons_of_mem _ ht)
    exact ⟨x, .goesOn s y x r q l hq hy hx⟩

/-- Where reads that continue go is what the overlay stage answers for each in turn. -/
theorem ContinueInTurn.foldl_eq {s x : State} {l : List Read} (h : ContinueInTurn s l x) :
    (l.map (·.tag)).foldl State.resolveOverlay s = x := by
  induction h with
  | done => rfl
  | goesOn s y x r q l hq hy _ ih =>
    rw [List.map_cons, List.foldl_cons, hy.resolveOverlay_eq hq]
    exact ih

/-- Reads of the queue are always resolved afresh somehow (R92). -/
theorem ResolvesAfresh.total : ∀ (l : List Read) (s : State), (∀ r ∈ l, r.tag ∈ s.port.reads.map (·.tag)) →
    ∃ x, ResolvesAfresh s l x
  | [], s, _ => ⟨s, .done s⟩
  | r :: l, s, h => by
    obtain ⟨q, hq⟩ := readOf_of_mem (h r (List.mem_cons_self ..))
    have rest (y : State) (e : y.port.reads.map (·.tag) = s.port.reads.map (·.tag)) : ∃ x, ResolvesAfresh y l x :=
      total l y fun t ht => e ▸ h t (List.mem_cons_of_mem _ ht)
    cases hz : s.hazard q.req.line with
    | true =>
      obtain ⟨x, hx⟩ := rest _ (setStage_keeps s r.tag .waitingHazard).2
      exact ⟨x, .waits s x r q l hq hz hx⟩
    | false =>
      obtain ⟨y, hy⟩ := Continues.total s r.tag q.req
      obtain ⟨x, hx⟩ := rest y hy.keeps.2
      exact ⟨x, .goesOn s y x r q l hq hz hy hx⟩

/-- Where reads resolved afresh go is what the hazard stage answers for each in turn; the write in progress stays. -/
theorem ResolvesAfresh.foldl_eq {s x : State} {l : List Read} (h : ResolvesAfresh s l x) :
    (l.map (·.tag)).foldl State.resolveHazard s = x ∧ x.port.write = s.port.write := by
  induction h with
  | done => exact ⟨rfl, rfl⟩
  | waits s x r q l hq hz _ ih =>
    refine ⟨?_, ih.2⟩
    rw [List.map_cons, List.foldl_cons, State.resolveHazard, hq]
    simp only [hz, if_true]
    exact ih.1
  | goesOn s y x r q l hq hz hy _ ih =>
    refine ⟨?_, ih.2.trans hy.keeps.1⟩
    rw [List.map_cons, List.foldl_cons, State.resolveHazard, hq]
    simp only [hz, Bool.false_eq_true, if_false]
    rw [hy.resolveOverlay_eq hq]
    exact ih.1

/-- A read that enters a lane with room gets a tag no other read has. -/
theorem freshTag_unused {reads : List Read} (h : reads.length < 4) : ∀ r ∈ reads, r.tag ≠ freshTag reads := by
  have : ∃ t ∈ List.range 4, (!(reads.any fun r => r.tag == t)) = true := by
    by_contra hc
    push Not at hc
    have hsub : List.range 4 ⊆ reads.map (·.tag) := by
      intro t ht
      have := hc t ht
      simp at this
      obtain ⟨r, hr, e⟩ := this
      exact List.mem_map.mpr ⟨r, hr, e⟩
    have := (List.nodup_range (n := 4)).subperm hsub |>.length_le
    simp at this; omega
  intro r hr e
  unfold freshTag at e
  cases hf : (List.range Config.readLaneSize).find? (fun t => !(reads.any fun r => r.tag == t)) with
  | none =>
    rw [List.find?_eq_none] at hf
    obtain ⟨t, ht, h2⟩ := this
    exact hf t ht h2
  | some t =>
    rw [hf] at e
    have := List.find?_some hf
    simp at this
    exact this r hr e

/-- A write always goes somewhere at the staging stage (Table 1-4). -/
theorem Stages.total (s : State) (w : WriteInProgress) : ∃ x, Stages s w x := by
  cases h2 : s.staging.find (sectorOf w.req.line) with
  | some i =>
    cases h3 : s.staging.entry i with
    | free => have := Staging.sector_of_find h2; rw [h3] at this; simp [Entry.sector?, Entry.data?] at this
    | filling d f => exact ⟨_, .merge i _ h2 (by rw [h3]; rfl)⟩
    | opened d _ => exact ⟨_, .merge i _ h2 (by rw [h3]; rfl)⟩
    | closed d _ => exact ⟨_, .merge i _ h2 (by rw [h3]; rfl)⟩
    | committing d _ _ => exact ⟨_, .committing i h2 (by rw [h3]; rfl)⟩
    | clean d => exact ⟨_, .merge i _ h2 (by rw [h3]; rfl)⟩
    | faulted d _ => exact ⟨_, .faulted i h2 (by rw [h3]; rfl)⟩
  | none =>
    cases h4 : s.staging.place s.now with
    | some i => exact ⟨_, .allocate i h2 h4⟩
    | none =>
      by_cases a : w.stage = .held .noEntry
      · exact ⟨_, .noEntry h2 h4 (Or.inl a)⟩
      · cases h5 : s.staging.pressureEntry s.now with
        | some i => exact ⟨_, .pressure i h2 h4 a h5⟩
        | none => exact ⟨_, .noEntry h2 h4 (Or.inr h5)⟩

/-- Where a write goes is what the staging stage answers. -/
theorem Stages.stageWrite_eq {s : State} {w : WriteInProgress} {x : State} (h : Stages s w x) : s.stageWrite w = x := by
  unfold State.stageWrite
  cases h with
  | merge i e h1 h2 => simp [h1, h2]
  | committing i h1 h2 =>
    simp only [h1]
    cases e : s.staging.entry i <;> rw [e] at h2 <;> simp [Entry.isCommitting] at h2
    simp [mergeEntry, Entry.isFaulted, State.holdWrite, State.heldFor]
  | faulted i h1 h2 =>
    simp only [h1]
    cases e : s.staging.entry i <;> rw [e] at h2 <;> simp [Entry.isFaulted] at h2
    simp [mergeEntry, Entry.isFaulted]
  | allocate i h1 h2 => simp [h1, h2, State.allocateWrite]; rfl
  | pressure i h1 h2 h3 h4 =>
    simp only [h1, h2, State.holdNoEntry]
    simp only [h4]
    rfl
  | noEntry h1 h2 h3 =>
    simp only [h1, h2, State.holdNoEntry]
    split
    · rfl
    · rename_i hn
      rcases h3 with h3 | h3
      · exact absurd h3 (by intro h; exact hn h)
      · simp [h3, State.holdWrite, State.heldFor]

theorem CaptureQueue.hasRoom_eq (q : CaptureQueue) (n : Nat) : q.hasRoom n = decide (q.occupancy < n) := rfl

/-- A write always goes somewhere from the fence stage on. -/
theorem Decides.total (s : State) (w : WriteInProgress) : ∃ x, Decides s w x := by
  cases h1 : s.inFence w.req.line
  case true => exact ⟨_, .fence h1⟩
  by_cases h2 : (s.writeDecision w).action = .deny
  · exact ⟨_, .denied h1 h2⟩
  cases h3 : s.sectorFaulted w.req.line
  case true => exact ⟨_, .media h1 h2 h3⟩
  have hp : s.passesRules w := ⟨h1, h2, h3⟩
  cases h4 : (s.writeDecision w).capture with
  | none => obtain ⟨x, hx⟩ := Stages.total (s.decided w) (s.withDecision w); exact ⟨x, .plain x hp (by simp [h4]) hx⟩
  | some q =>
    by_cases h5 : (s.capture.queue q).mode = .strict
    · by_cases h6 : (s.capture.queue q).occupancy < Config.queueCapacity q
      · obtain ⟨x, hx⟩ := Stages.total ((s.decided w).reserve q) (s.withDecision w); exact ⟨x, .strict q x hp h4 h5 h6 hx⟩
      · exact ⟨_, .noSpace q hp h4 h5 (by omega)⟩
    · obtain ⟨x, hx⟩ := Stages.total (s.decided w) (s.withDecision w)
      exact ⟨x, .plain x hp (by intro q' e; rw [h4] at e; cases e; exact h5) hx⟩

/-- Where a write goes is what the fence stage and those after it answer. -/
theorem Decides.fenceStage_eq {s : State} {w : WriteInProgress} {x : State} (h : Decides s w x) : s.fenceStage w = x := by
  have a1 : (s.noteUrgent (s.decisionFor .write w.req.line)) = s.decided w := rfl
  have a2 : ({ w with decision := some (s.decisionFor .write w.req.line) } : WriteInProgress) = s.withDecision w := rfl
  have a3 : (s.decided w).inFence w.req.line = s.inFence w.req.line := by
    unfold State.decided State.noteUrgent; split <;> rfl
  have a4 : (s.decided w).sectorFaulted w.req.line = s.sectorFaulted w.req.line := by
    unfold State.decided State.noteUrgent; split <;> rfl
  have a5 : (s.decided w).capture = s.capture := by simp [State.decided]
  have key : s.fenceStage w = if s.inFence w.req.line = true then (s.decided w).refuseWrite (s.withDecision w) .deniedFence
      else if (s.writeDecision w).action = .deny then (s.decided w).refuseWrite (s.withDecision w) .deniedRule
      else if s.sectorFaulted w.req.line = true then (s.decided w).refuseWrite (s.withDecision w) .deniedMedia
      else (s.decided w).reserveStage (s.withDecision w) := by
    have : s.fenceStage w = if (s.decided w).inFence w.req.line = true then (s.decided w).refuseWrite (s.withDecision w) .deniedFence
      else if (s.writeDecision w).action = .deny then (s.decided w).refuseWrite (s.withDecision w) .deniedRule
      else if (s.decided w).sectorFaulted w.req.line = true then (s.decided w).refuseWrite (s.withDecision w) .deniedMedia
      else (s.decided w).reserveStage (s.withDecision w) := rfl
    rw [this]; simp only [a3, a4]
  rw [key]
  have rs : s.passesRules w → (if s.inFence w.req.line = true then (s.decided w).refuseWrite (s.withDecision w) .deniedFence
      else if (s.writeDecision w).action = .deny then (s.decided w).refuseWrite (s.withDecision w) .deniedRule
      else if s.sectorFaulted w.req.line = true then (s.decided w).refuseWrite (s.withDecision w) .deniedMedia
      else (s.decided w).reserveStage (s.withDecision w)) = (s.decided w).reserveStage (s.withDecision w) := by
    rintro ⟨h1, h2, h3⟩
    rw [if_neg (by simp [h1]), if_neg h2, if_neg (by simp [h3])]
  cases h with
  | fence h1 => rw [if_pos h1]
  | denied h1 h2 => rw [if_neg (by simp [h1])]; rw [if_pos h2]
  | media h1 h2 h3 => rw [if_neg (by simp [h1])]; rw [if_neg h2, if_pos h3]
  | noSpace q hp h1 h2 h3 =>
    rw [rs hp]
    unfold State.reserveStage State.withDecision
    rcases hd : s.writeDecision w with ⟨di, da, dc, dd, du⟩
    rw [hd] at h1; simp only at h1; subst h1
    simp only [a5, h2, if_true, CaptureQueue.hasRoom_eq]
    rw [if_neg (by simp; omega)]
    rfl
  | strict q _ hp h1 h2 h3 hx =>
    rw [rs hp, ← Stages.stageWrite_eq hx]
    unfold State.reserveStage State.withDecision
    rcases hd : s.writeDecision w with ⟨di, da, dc, dd, du⟩
    rw [hd] at h1; simp only at h1; subst h1
    simp only [a5, h2, if_true, CaptureQueue.hasRoom_eq]
    rw [if_pos (by simpa using h3)]
  | plain _ hp h1 hx =>
    rw [rs hp, ← Stages.stageWrite_eq hx]
    unfold State.reserveStage State.withDecision
    rcases hd : s.writeDecision w with ⟨di, da, dc, dd, du⟩
    cases dc with
    | none => rfl
    | some q =>
      have := h1 q (by rw [hd])
      simp only [a5]
      rw [if_neg this]

/-- A write always goes somewhere from the power-state check on (R96). -/
theorem Admits.total (s : State) (w : WriteInProgress) : ∃ x, Admits s w x := by
  cases h : s.power.st with
  | run => obtain ⟨x, hx⟩ := Decides.total s w; exact ⟨x, .run x h hx⟩
  | drain =>
    cases h2 : s.power.policy.drainAbort
    · obtain ⟨x, hx⟩ := Decides.total s.withdrawSleep w; exact ⟨x, .drain x h h2 hx⟩
    · obtain ⟨x, hx⟩ := Decides.total (s.abandonDrain .activity) w; exact ⟨x, .abort x h h2 hx⟩
  | sleep =>
    cases h2 : s.power.policy.refuseInSleep
    · exact ⟨_, .wakes h h2⟩
    · exact ⟨_, .refused (Or.inr (Or.inr ⟨h, h2⟩))⟩
  | waking => exact ⟨_, .waits (Or.inl h)⟩
  | starting => exact ⟨_, .waits (Or.inr h)⟩
  | emergency => exact ⟨_, .refused (Or.inl h)⟩
  | safe => exact ⟨_, .refused (Or.inr (Or.inl h))⟩
  | unconfigured => exact ⟨_, .unconfigured h⟩

/-- Where a write goes is what the power-state check and the stages after it answer. -/
theorem Admits.powerStage_eq {s : State} {w : WriteInProgress} {x : State} (h : Admits s w x) : s.powerStage w = x := by
  unfold State.powerStage
  cases h with
  | run _ h hx => simp only [h]; exact Decides.fenceStage_eq hx
  | drain _ h h2 hx => simp only [h, h2]; exact Decides.fenceStage_eq hx
  | abort _ h h2 hx => simp only [h, h2, if_true]; exact Decides.fenceStage_eq hx
  | wakes h h2 => simp [h, h2, State.holdWrite, State.heldFor]
  | waits h => rcases h with h | h <;> simp [h, State.holdWrite, State.heldFor]
  | refused h => rcases h with h | h | ⟨h, h2⟩ <;> simp [*]
  | unconfigured h => simp [h]

end Sys2Proof.Machine
end

