-- ==== Sys2Proof/Tests/Slice0.lean ====
section
/-! SUPPORT. The model's own tests: ill-formed commands refused, values worked out in the spec, one step on a small state, and, for each statement of the obligations that has hypotheses, a state and operands that meet them. -/

namespace Sys2Proof.Tests

open Sys2Proof.Machine

/-! ### Small states -/

/-- A profile: 4 MiB, 3 address bytes, busy while bit 0 is one, suspended in bit 7, fail in bit 5, wake delay 5. -/
def profile : List Byte := [3, 3, 0x03, 0x02, 0x20, 0x06, 0x05, 0x75, 0x7A, 0xB9, 0xAB, 0, 0x00, 7, 5, 5]

/-- A configured part in RUN, nothing waiting. -/
def idle : State :=
  { State.reset with profile := some profile, power := { State.reset.power with st := .run } }

/-- A sector's images, every tick 0. -/
def sector (n : Nat) (base work : Image) : Sector :=
  { number := n, base := base, work := work, firstWrite := 0, lastWrite := 0, lastUse := 0 }

/-- The part with an entry. -/
def holding (i : Nat) (e : Entry) (s : State) : State := s.withStaging (s.staging.setEntry i e)

/-- Stopped timers. -/
def stopped : Timers := { idle := none, age := none }

/-- A fill whose written set is offset 0. -/
def filling : Filling :=
  { written := [0], closeOnFill := none, timers := { idle := some 0, age := some 0 }, idlePending := false, agePending := false }

/-- An operation just issued. -/
def fresh (step : OpStep) : FlashOp := { step := step, timeLimit := 50, busyTicks := 0, suspCount := 0, lastResume := none }

/-- The part with the sequencer in a state. -/
def seqIn (x : SeqState) (s : State) : State := s.setSeqSt x

/-- The part in a power state. -/
def powerIn (x : PowerState) (s : State) : State := s.setPowerSt x

/-- The state a command answers. -/
def after (c : Instr) (s : State) : State :=
  match exec c s with
  | .next t => t
  | .fault _ => s
  | .refused _ => s

/-- The status code of the reply a command leaves; 255 where none is. -/
def replyStatus (s : State) (c : Instr) : Nat :=
  match (after c s).control.overlay with
  | some o => (byteAt o.bytes 0).toNat
  | none => 255

/-- A write of selected bytes. -/
def write (line : Addr) (offset : Nat) (bytes : List Byte) : Instr := .writeRequest line offset (bytes.map some) false

/-- Whether a command changes nothing but the outputs of the event before. -/
def still (c : Instr) (s : State) : Bool := decide (after c s = s.clearOut)

/-! ### Well-formedness: every check refuses -/

theorem test_wf_readRequest :
    Instr.wf (.readRequest 0x23041 0 64) = false ∧ Instr.wf (.readRequest 0x23040 64 1) = false ∧
    Instr.wf (.readRequest 0x23040 0 0) = false ∧ Instr.wf (.readRequest 0x23040 0 65) = false ∧
    Instr.wf (.readRequest 0x23040 63 64) = true := by decide

theorem test_wf_writeRequest :
    Instr.wf (.writeRequest 0x23001 0 [some 1] false) = false ∧ Instr.wf (.writeRequest 0x23000 64 [some 1] false) = false ∧
    Instr.wf (.writeRequest 0x23000 0 [] false) = false ∧
    Instr.wf (.writeRequest 0x23000 0 (List.replicate 65 none) false) = false ∧
    Instr.wf (.writeRequest 0x23000 63 (List.replicate 64 none) true) = true := by decide

theorem test_wf_bytes :
    Instr.wf (.readComplete []) = false ∧ Instr.wf (.readComplete (List.replicate 64 0)) = true ∧
    Instr.wf (.readComplete (List.replicate 256 0)) = true ∧ Instr.wf (.idleTimerExpiry 16) = false ∧
    Instr.wf (.ageTimerExpiry 16) = false ∧ Instr.wf (.ageTimerExpiry 15) = true ∧
    Instr.wf (.programFuse 0 1 0 1 (List.replicate 17 0)) = false ∧ Instr.wf (.programFuse 0 1 0 1 (List.replicate 16 0)) = true ∧
    Instr.wf (.fuseProgrammingCompletion (List.replicate 17 0)) = false ∧ Instr.wf (.unknownCommand 0 0x01) = false ∧
    Instr.wf (.unknownCommand 0 0x99) = true := by decide +kernel

/-- A record at an address that is no line address is ill-formed, for every command. -/
theorem test_wf_lines :
    ([.identify 1, .readStatus 1 0 false, .softReset 1 0, .setTiming 1 TimingSettings.default, .clearEvents 1 0,
      .setEventEnables 1 0, .setRule 1 (ruleRecordOf 0 Rule.zero) false, .readRule 1 0 false, .setDefault 1 0 0 false,
      .setFence 1 0 0 0 false, .setLock 1 0 false, .setQueue 1 1 0 1, .fetchCapture 1 1 1, .ackCapture 1 1 0,
      .fetchSlot 1 0, .releaseSlot 1 0, .flush 1 0 0, .listFaults 1, .faultRetry 1 0, .faultDiscard 1 0,
      .setFlashPolicy 1 ⟨1, 3, 1, 10, 1, 16⟩, .sleep 1, .wake 1, .setPowerPolicy 1 0 0 0, .programFuse 1 1 0 1 [],
      .lockFuse 1 1, .unknownCommand 1 0x99] : List Instr).all (fun c => !c.wf) = true := by decide

/-- No row of the command table gives bits, so no word spells a command. -/
theorem test_noWordSpells : decodeTableWord 16 0x1234 = none ∧ idle.withFetchWord 16 0x1234 = idle := ⟨rfl, rfl⟩

/-! ### Values the spec works out -/

/-- The check values of R187. -/
theorem test_crc : crc16 [0x00] = 0xE1F0 ∧ crc16 [0x31, 0x32, 0x33, 0x34, 0x35, 0x36, 0x37, 0x38, 0x39] = 0x29B1 := by
  decide +kernel

/-- Table 5-1: size code 3 of a 4 MiB flash. -/
theorem test_fence :
    ({ size := 3, side := .low, invert := false } : Fence).area 0x400000 = (0, 0x040000) ∧
    ({ size := 3, side := .high, invert := false } : Fence).area 0x400000 = (0x3C0000, 0x400000) ∧
    ({ size := 3, side := .low, invert := true } : Fence).area 0x400000 = (0x040000, 0x400000) := by decide

/-- The rules of chapter 5.6. -/
def example56 : State :=
  idle.withRule { idle.rule with rules :=
    [{ Rule.zero with enabled := true, addr1 := 0x100000, addr2 := 0x10FFC0, applies := .writes, action := .latch, slot := 2,
                      capture := some .a, captureData := true },
     { Rule.zero with enabled := true, kind := .mask, addr1 := 0x3C0000, addr2 := 0x3C0000, applies := .writes,
                      capture := some .b, urgent := true },
     { Rule.zero with enabled := true, kind := .pair, addr2 := 0x000FC0, applies := .both, action := .deny, capture := some .a,
                      urgent := true },
     { Rule.zero with enabled := true, addr1 := 0x100000, addr2 := 0x10FFC0, applies := .both, capture := some .a,
                      captureData := true }] }

/-- Table 5-6: the deciding rules of events 1, 3, 4, 5 and 7. -/
theorem test_decisions :
    (example56.decisionFor .write 0x100080).rule = .rule 0 ∧ (example56.decisionFor .read 0x000FC0).rule = .rule 2 ∧
    (example56.decisionFor .write 0x3C1040).rule = .rule 1 ∧ (example56.decisionFor .read 0x3C1040).rule = .default ∧
    (example56.decisionFor .write 0x10FFC0).action = .latch 2 := by decide +kernel

/-- A capture record that carries no data. -/
def record (n : BitVec 32) : CaptureRecord :=
  { number := n, tick := 0, access := .write, line := 0x200000, offset := 0, length := 1, rule := .rule 5, outcome := .absorbed,
    data := none }

/-- Queue B holds records 2 and 3. -/
def audited : State := idle.withCapture { idle.capture with
  b := { idle.capture.b with records := [record 2, record 3], next := 4, mode := .overwrite } }

/-- Chapter 6.7, events 6 to 8: d below the count, at least 2^31, and between. -/
theorem test_ackCount :
    ackCount audited.capture.b 3 = some 2 ∧ ackCount audited.capture.b 1 = some 0 ∧ ackCount audited.capture.b 4 = none ∧
    ackCount idle.capture.b 0xFFFFFFFF = some 0 ∧ ackCount idle.capture.b 0 = none := by decide +kernel

/-- Chapter 1.11, event 1: the first write allocates entry 0, asks for the fill and is answered OK. -/
theorem test_firstWrite :
    let s := after (write 0x23040 0 [0x00, 0x11, 0x22, 0x33]) idle
    (s.staging.entry 0).data?.map (fun d => (d.number, imgSpan d.work 0x40 4, d.base)) =
      some (0x23, [0x00, 0x11, 0x22, 0x33], []) ∧
    s.seq.st = .reading (.fillPage 0x23 0) ∧ s.answers.map (·.result) = [.ok []] ∧ s.dirtyLine = true := by decide +kernel

/-- Chapter 7.6, event 1: SLEEP closes entry 4, whose commit start is granted, and the power state is DRAIN. -/
theorem test_sleepDrains :
    let s := after (.sleep 0x3FF000) (holding 4 (.opened (sector 0x12 [] [(0x300, 1)]) stopped) idle)
    s.power.st = .drain ∧ s.seq.st = .busy (fresh (.program 3)) ∧ s.link.map (·.fn) = [.arm, .program] ∧
    s.power.drainExpiry = some 20000 := by decide +kernel

/-! ### Hypotheses met: the step, the laws -/

theorem test_hyps_StepRunsTheFrontCommand : (idle.withPending [.grant, .readAnswer]).pending = .grant :: [.readAnswer] := rfl

/-- No entry of the idle part holds a sector. -/
theorem entry_idle (i : Nat) : idle.staging.entry i = .free := by
  have : idle.staging.entries = List.replicate 16 .free := rfl
  rw [Staging.entry, this, List.getElem?_replicate]
  split <;> rfl

/-- Nothing falls due at the next increment in the idle part, whatever state the sequencer is in but its timed ones. -/
theorem noneDue_idle {x : SeqState} (b : Nat) (h1 : x ≠ .waking 1) (h2 : ∀ o, x ≠ .suspending o 1)
    (h3 : ∀ r, x ≠ .startupWait 1 r) (h4 : ∀ op, x.counting? = some op → op.busyTicks + 1 < op.timeLimit) :
    ((seqIn x idle).withTime { idle.time with subTick := b }).NoneDue :=
  ⟨rfl, h1, h3, h2, fun e => (by cases e), h4, fun w c e => (by cases e),
    fun i e => (by have := (congrArg Entry.idleExpiry (entry_idle i)).symm.trans e; cases this),
    fun i e => (by have := (congrArg Entry.ageExpiry (entry_idle i)).symm.trans e; cases this),
    fun q e => (by cases q <;> cases e), fun e => (by cases e), fun o e => (by cases e)⟩

/-- The last microsecond before a tick, the one that brings the tick, and a part without power. -/
theorem test_hyps_EmptyQueueIsAMicrosecond :
    let s (b : Nat) := idle.withTime { idle.time with subTick := b }
    let off := { idle with powered := false }
    ((s 98).pending = [] ∧ (s 98).atRest ∧ (s 98).running = true ∧ (s 98).time.subTick + 1 < (s 98).time.timing.prescaler.toNat) ∧
    ((s 99).atRest ∧ (s 99).NoneDue ∧ (s 99).time.timing.prescaler.toNat ≤ (s 99).time.subTick + 1 ∧ (s 99).seq.st = .idle) ∧
    (off.pending = [] ∧ off.atRest ∧ off.running = false) :=
  ⟨⟨rfl, rfl, rfl, by decide⟩, ⟨rfl, noneDue_idle (x := .idle) 99 (by decide) (by simp) (by simp) (fun _ h => by cases h), by decide, rfl⟩,
    rfl, rfl, rfl⟩

/-- An effect due; none due; a RESOLVED read before a waiting write, and before a waiting read too. -/
theorem test_hyps_EventsSettleEffectByEffect :
    let r : Read := { tag := 0, req := { line := 0x40, offset := 0, length := 1 }, decision := none, stage := .resolved (.ok [1] .flash) }
    let next : WriteReq := { line := 0x40, offset := 0, bytes := [some 7] }
    let s := idle.withPort { idle.port with reads := [r], waitWrites := [next] }
    let t := idle.withPort { idle.port with reads := [r], waitWrites := [next], waitReads := [r.req] }
    (∃ s', settleOnce (idle.presentRead 0x23040 0 64) = some s') ∧ idle.atRest ∧
    (s.port.reads = [r] ∧ s.softResetDue = false ∧ s.canReleaseWrite = false ∧ s.canReleaseHazard = false ∧ s.sleepSpoiled = false ∧
      s.canGrant = false ∧ s.drainDue = false ∧ s.safeDue = false ∧ s.canPlaceReply = false ∧ s.canAcceptWrite = true ∧
      s.port.waitReads = []) ∧
    (t.port.reads = [r] ∧ t.softResetDue = false ∧ t.canReleaseWrite = false ∧ t.canReleaseHazard = false ∧ t.sleepSpoiled = false ∧
      t.canGrant = false ∧ t.drainDue = false ∧ t.safeDue = false ∧ t.canPlaceReply = false ∧ t.port.lanesOpen = true ∧
      ((t.setReads []).answerRead r (.ok [1] .flash)).port.reads.length < 4 ∧ t.port.waitReads ≠ []) := by
  refine ⟨⟨_, rfl⟩, rfl, ?_, ?_⟩ <;> decide

theorem test_hyps_StepsKeepTheCaptureLaw : audited.CaptureLaw ∧ ∃ t, step audited = .next t := by
  refine ⟨⟨⟨by decide, fun i r h => ?_⟩, by decide, fun i r h => ?_⟩, _, rfl⟩
  · cases h
  · match i, h with
    | 0, h => cases h; rfl
    | 1, h => cases h; rfl

/-- One entry CLEAN, one CLOSED and queued. -/
def staged : State :=
  let s := holding 0 (.clean (sector 1 [(5, 7)] [(5, 7)])) (holding 3 (.closed (sector 2 [] [(0, 0)]) .flush) idle)
  s.withStaging { s.staging with closeQueue := [3] }

theorem test_hyps_StepsKeepTheStagingLaw : staged.StagingLaw ∧ ∃ t, step staged = .next t := by
  have e : staged.staging.entries = .clean (sector 1 [(5, 7)] [(5, 7)]) :: .free :: .free ::
      .closed (sector 2 [] [(0, 0)]) .flush :: List.replicate 12 .free := rfl
  refine ⟨⟨rfl, fun x hx d hd => ?_, fun d hd => ?_, by decide, by decide, fun i => ?_, by decide, ?_, ?_, ?_, ?_⟩, _, rfl⟩
  · rw [e] at hx
    simp only [List.mem_cons, List.mem_replicate] at hx
    rcases hx with rfl | rfl | rfl | rfl | ⟨_, rfl⟩ <;> cases hd <;> decide
  · rw [e] at hd
    simp only [List.mem_cons, List.mem_replicate, Entry.clean.injEq, reduceCtorEq, and_false, or_false] at hd
    subst hd; rfl
  · have q : staged.staging.closeQueue = [3] := rfl
    rw [q, List.mem_singleton, Staging.entry, e]
    match i with
    | 0 => decide
    | 1 => decide
    | 2 => decide
    | 3 => decide
    | n + 4 =>
      have r : (Entry.clean (sector 1 [(5, 7)] [(5, 7)]) :: .free :: .free :: .closed (sector 2 [] [(0, 0)]) .flush ::
          List.replicate 12 .free)[n + 4]? = (List.replicate 12 Entry.free)[n]? := rfl
      rw [r, List.getElem?_replicate]
      split <;> simp [Entry.isClosed]
  · intro f hf; cases hf
  · intro p hp; cases hp
  · intro w hw; cases hw
  · intro w hw; cases hw

/-- The part asleep. -/
def asleep : State := seqIn .asleep (powerIn .sleep idle)

/-- The part with a flash that wakes at once. -/
def quick (s : State) : State := { s with profile := some (profile.set 15 0) }

theorem test_hyps_StepsKeepTheSleepLaw :
    asleep.SleepLaw ∧ asleep.power.st = .sleep ∧ ∃ t, step asleep = .next t :=
  ⟨⟨fun h => (by cases h), fun _ => ⟨rfl, rfl⟩, fun h => (by cases h), fun h => (by cases h)⟩, rfl, _, rfl⟩

theorem test_hyps_StepsKeepTheTimerLaw : idle.TimerLaw ∧ ∃ t, step idle = .next t :=
  ⟨⟨rfl, by decide, by decide, fun r e => (by cases e), fun o e => (by cases e), by decide,
    fun op h => (by cases h), fun w c e => (by cases e), fun i _ => (by rw [entry_idle i]; decide),
    fun i _ => (by rw [entry_idle i]; decide), fun q => (by cases q <;> decide), fun e => (by cases e), fun o e => (by cases e)⟩, _, rfl⟩

theorem test_hyps_StepsKeepTheSizes : idle.SizeLaw ∧ ∃ t, step idle = .next t :=
  ⟨⟨rfl, rfl, rfl, by decide, rfl, rfl, rfl, rfl⟩, _, rfl⟩

theorem test_hyps_FrozenKeepsTheRules :
    let s := idle.withRule { idle.rule with lock := .frozen }
    s.rule.lock = .frozen ∧ (Instr.setLock 0 0 true).restarts = false ∧ ∃ t, exec (.setLock 0 0 true) s = .next t :=
  ⟨rfl, rfl, _, rfl⟩

theorem test_hyps_FusesOnlyGainBits :
    (Instr.lockFuse 0 1).restarts = false ∧ ∃ t, exec (.lockFuse 0 1) idle = .next t := ⟨rfl, _, rfl⟩

/-! ### Hypotheses met: control records -/

/-- The idle part takes a record at the first line and at the last. -/
theorem ready : idle.ReadyFor 0 ∧ idle.ReadyFor 0x3FFFC0 :=
  ⟨⟨rfl, rfl, rfl, rfl, rfl, rfl, rfl⟩, ⟨rfl, rfl, rfl, rfl, rfl, rfl, rfl⟩⟩

theorem test_hyps_RecordsCarryTheirArguments :
    idle.ReadyFor 0x3FFFC0 ∧ (List.replicate 16 (0 : Byte)).length ≤ 16 ∧ commandCodes.contains 0x00 = false :=
  ⟨ready.2, by decide, by decide⟩

theorem test_hyps_IdentifyAndUnknownCommand : idle.ReadyFor 0 ∧ commandCodes.contains 0x72 = false := ⟨ready.1, by decide⟩

/-- The last drain result and the last refusal, absent and present. -/
theorem test_hyps_ReadStatusReports :
    let s := idle.withPower { idle.power with lastDrain := some { outcome := .entered, tick := 9 } }
    let r : LastRefusal := { reason := .badSpan, access := .read, line := 0, rule := none, tick := 9 }
    idle.ReadyFor 0 ∧ idle.capture.slots.length = 8 ∧ idle.power.lastDrain = none ∧ idle.port.lastRefusal = none ∧
    (∃ x, s.power.lastDrain = some x) ∧ (idle.withPort { idle.port with lastRefusal := some r }).port.lastRefusal = some r :=
  ⟨ready.1, rfl, rfl, rfl, ⟨_, rfl⟩, rfl⟩

theorem test_hyps_SetTimingReplacesAllOrNothing : idle.ReadyFor 0 := ready.1
theorem test_hyps_EventCommandsActOnTheNamedEvents : idle.ReadyFor 0 := ready.1
theorem test_hyps_SetDefaultReplacesTheDefault : idle.ReadyFor 0 := ready.1
/-- Nothing protected, the whole flash, no window. -/
theorem test_hyps_SetFenceReplacesTheFence :
    idle.ReadyFor 0 ∧ State.reset.windowSize = none ∧ idle.windowSize = some 0x400000 ∧ (0 : Nat) ≤ 7 ∧ (7 : Nat) ≤ 7 ∧
    (0x400000 / 2 ^ (7 - 7)) / 4096 ≠ 0 := ⟨ready.1, rfl, rfl, by decide, by decide, by decide⟩
theorem test_hyps_SetLockFollowsItsTable : idle.ReadyFor 0 := ready.1
theorem test_hyps_PoliciesAreReplacedWhole : idle.ReadyFor 0 := ready.1
theorem test_hyps_SlotCommands :
    idle.ReadyFor 0 ∧ (idle.capture.slot 0).record = none ∧
    ∃ r, ({ isNew := true, record := some ⟨0x40, 0, [1], 0, 5⟩ } : LatchSlot).record = some r := ⟨ready.1, rfl, _, rfl⟩

/-- Every range at its boundary: prescaler 1, 1000, 1001; positions 20 and 21; sizes 7 and 8; watermarks; slots. -/
theorem test_boundaries :
    ([1, 0, 1000, 1001].map fun n => replyStatus idle (.setTiming 0 { TimingSettings.default with prescaler := n })) = [0, 3, 0, 3] ∧
    ([0x00100000, 0x00200000].map fun n => replyStatus idle (.clearEvents 0 n)) = [0, 3] ∧
    ([0x00100000, 0x00200000].map fun n => replyStatus idle (.setEventEnables 0 n)) = [0, 3] ∧
    ([1, 2].map fun n => replyStatus idle (.setDefault 0 n 2 false)) = [0, 3] ∧
    ([7, 8].map fun n => replyStatus idle (.setFence 0 n 1 1 false)) = [0, 3] ∧
    ([2, 3].map fun n => replyStatus idle (.setLock 0 n false)) = [0, 3] ∧
    ([0, 1, 16, 17].map fun n => replyStatus idle (.setQueue 0 2 2 n)) = [3, 0, 0, 3] ∧
    ([0, 1, 32, 33].map fun n => replyStatus idle (.fetchCapture 0 1 n)) = [3, 0, 0, 3] ∧
    ([7, 8].map fun n => replyStatus idle (.fetchSlot 0 n)) = [0, 3] ∧
    ([7, 8].map fun n => replyStatus idle (.releaseSlot 0 n)) = [0, 3] ∧
    ([0, 1, 64, 65].map fun n => replyStatus idle (.setFlashPolicy 0 ⟨1, 7, 3, 255, 0, n⟩)) = [3, 0, 0, 3] ∧
    ([1, 2].map fun n => replyStatus idle (.setPowerPolicy 0 1 1 n)) = [0, 3] ∧
    ([1, 3, 4, 0].map fun n => replyStatus idle (.lockFuse 0 n)) = [0, 0, 3, 3] ∧
    ([1, 2].map fun n => replyStatus idle (.readStatus 0 n false)) = [0, 3] := by decide +kernel

/-- A queue, or a mode, outside its codes. -/
theorem test_hyps_SetQueueSetsModeAndWatermark :
    idle.ReadyFor 0 ∧ ((3 : Byte) = 0 ∨ 2 < (3 : Byte).toNat ∨ 2 < (0 : Byte).toNat) ∧
    ((1 : Byte) = 0 ∨ 2 < (1 : Byte).toNat ∨ 2 < (3 : Byte).toNat) := ⟨ready.1, by decide, by decide⟩

theorem test_hyps_FetchCaptureCopiesFromTheHead :
    let rs := audited.capture.b.records
    let c := fittingRecords 39 8 rs
    idle.ReadyFor 0 ∧ ((3 : Byte) = 0 ∨ 2 < (3 : Byte).toNat) ∧ c.length = 1 ∧ rs[c.length]? = some (record 3) ∧ c.length < 8 :=
  ⟨ready.1, by decide, by decide +kernel, by decide +kernel, by decide +kernel⟩

theorem test_hyps_AckCaptureRemovesUpToTheNamedRecord : audited.ReadyFor 0 ∧ ((3 : Byte) = 0 ∨ 2 < (3 : Byte).toNat) :=
  ⟨⟨rfl, rfl, rfl, rfl, rfl, rfl, rfl⟩, by decide⟩

/-- A valid rule, the four invalid cases, each field one above its last value, and both results of the lock. -/
theorem test_hyps_RuleCommandsStoreAndReport :
    let r : Rule := { Rule.zero with addr2 := 0x3FFFC0, slot := 7 }
    let a := ruleRecordOf 23 r
    idle.ReadyFor 0 ∧ 23 < 24 ∧ r.slot < 8 ∧ (∃ f, idle.windowSize = some f ∧ ¬ f ≤ r.addr2.toNat ∧ f ≤ (0x400000 : Addr).toNat) ∧
    (idle.rule.lock ≠ .frozen ∧ idle.rule.lock ≠ .guarded) ∧
    ([{ a with action := 2 }, { a with flags := 2 }, { a with addr1 := 0x3FFFC0, addr2 := 0 }, { a with addr2 := 0x400000 },
      { a with index := 24 }, { a with flags := 8 }, { a with kind := 3 }, { a with applies := 3 }, { a with action := 3 },
      { a with slot := 8 }, { a with capture := 3 }, a].map fun x => replyStatus idle (.setRule 0 x false)) =
        [3, 3, 3, 3, 3, 3, 3, 3, 3, 3, 3, 0] ∧
    ([.guarded, .frozen].map fun l => replyStatus (idle.withRule { idle.rule with lock := l }) (.setRule 0 a false)) = [1, 1] :=
  ⟨ready.1, by decide, by decide, ⟨0x400000, rfl, by decide, by decide⟩, by decide, by decide +kernel, by decide +kernel⟩

/-- A part whose entry 3 holds sector 23H. -/
def with23 (e : Sector → Entry) : State := holding 3 (e (sector 0x23 [] [(0, 0)])) idle

/-- The fault record of the tests. -/
def fault : FaultRecord := { kind := .eraseFailed, page := none, tick := 0 }

/-- Scope ALL and SECTOR, a sector without an entry, the first sector beyond 4 MiB, and an IDLE sequencer that grants. -/
theorem test_hyps_FlushClosesEntries :
    let s := with23 (.opened · stopped)
    (s.ReadyFor 0 ∧ s.seq.powerReq = none ∧ ((s.clearOut.withStaging (s.staging.closeAll .flush)).granted).atRest) ∧
    (s.beyondSectors 0x400 = true ∧ s.beyondSectors 0x3FF = false ∧ s.staging.find 0x3FF = none) ∧
    (s.staging.find 0x23 = some 3 ∧ ((s.clearOut.withStaging (s.staging.close .flush 3)).granted).atRest) ∧
    1 < (2 : Byte).toNat :=
  ⟨⟨⟨rfl, rfl, rfl, rfl, rfl, rfl, rfl⟩, rfl, rfl⟩, ⟨rfl, rfl, rfl⟩, ⟨rfl, rfl⟩, by decide⟩

/-- A FAULTED entry; a fault record with the last page, and one with none. -/
theorem test_hyps_ListFaultsReports :
    (with23 (.faulted · fault)).ReadyFor 0x3FFFC0 ∧ ({ fault with page := some 15 } : FaultRecord).page = some 15 ∧ 15 < 16 ∧
    fault.page = none ∧ faultOf (.faulted (sector 0x23 [] []) fault) = some (0x23, fault) :=
  ⟨⟨rfl, rfl, rfl, rfl, rfl, rfl, rfl⟩, rfl, by decide, rfl, rfl⟩

/-- Each case of the two commands: beyond the flash, EMERGENCY, no entry, another state, FAULTED. -/
theorem test_hyps_FaultCommandsActOnTheFaultedEntry :
    let s := with23 (.faulted · fault)
    let d := sector 0x23 [] [(0, 0)]
    (s.ReadyFor 0 ∧ s.seq.powerReq = none ∧ s.beyondSectors 0x400 = true ∧ s.beyondSectors 0x23 = false) ∧
    ((powerIn .safe s).ReadyFor 0 ∧ (powerIn .safe s).power.st = .safe) ∧
    (∀ i d r, s.staging.find 0x3FF = some i → s.staging.entry i ≠ .faulted d r) ∧
    (∀ i d r, (with23 .clean).staging.find 0x23 = some i → (with23 .clean).staging.entry i ≠ .faulted d r) ∧
    (s.staging.find 0x23 = some 3 ∧ s.staging.entry 3 = .faulted d fault ∧ s.power.st = .run) ∧
    (((s.clearOut.withStaging { s.staging with entries := s.staging.entries.set 3 (.closed d .retry),
                                               closeQueue := s.staging.closeQueue ++ [3] }).granted).atRest) ∧
    (s.port.reads.all (fun x => !x.fromEntry 3 0x23) = true ∧
      (s.clearOut.withStaging { s.staging with entries := s.staging.entries.set 3 .free }).atRest) := by
  refine ⟨⟨⟨rfl, rfl, rfl, rfl, rfl, rfl, rfl⟩, rfl, rfl, rfl⟩, ⟨⟨rfl, rfl, rfl, rfl, rfl, rfl, rfl⟩, rfl⟩, ?_, ?_,
    ⟨rfl, rfl, rfl⟩, rfl, rfl, rfl⟩
  · intro i d r h; cases h
  · intro i d r h e; cases h; cases e

/-- Outside RUN; in RUN with a close that brings a commit, and with none; WAKE in SLEEP, RUN and SAFE. -/
theorem test_hyps_SleepAndWakeMoveThePowerState :
    let s := with23 (.opened · stopped)
    let drained (s : State) := (s.clearOut.withPower { s.power with
      st := .drain, drainExpiry := some (tickAfter s.now s.time.timing.drainLimit.toNat) }).withStaging (s.staging.closeAll .drain)
    let awake := idle.withPower { idle.power with policy := { idle.power.policy with deepSleep := false } }
    (s.ReadyFor 0 ∧ s.seq.powerReq = none ∧ s.power.st = .run ∧ (drained s).canGrant = true ∧ (drained s).grantNext.atRest) ∧
    ((drained idle).drainDue = true ∧ ((drained idle).setPowerReq (some .sleep)).grantSleep.atRest) ∧
    ((drained awake).drainDue = true ∧ (drained awake).enterSleep.atRest) ∧
    (asleep.ReadyFor 0 ∧ asleep.power.st = .sleep ∧ asleep.clearOut.wakePart.atRest) ∧
    (asleep.seq.st = .asleep ∧ (byteAt (asleep.profile.getD []) 15).toNat ≠ 0 ∧
      (byteAt ((quick asleep).profile.getD []) 15).toNat = 0 ∧ idle.seq.st ≠ .asleep) ∧
    (powerIn .safe idle).ReadyFor 0 :=
  ⟨⟨⟨rfl, rfl, rfl, rfl, rfl, rfl, rfl⟩, rfl, rfl, rfl, rfl⟩, ⟨rfl, rfl⟩, ⟨rfl, rfl⟩,
    ⟨⟨rfl, rfl, rfl, rfl, rfl, rfl, rfl⟩, rfl, rfl⟩, ⟨rfl, by decide, rfl, by decide⟩, ⟨rfl, rfl, rfl, rfl, rfl, rfl, rfl⟩⟩

theorem test_hyps_FuseCommands :
    idle.ReadyFor 0 ∧ (List.replicate 16 (1 : Byte)).length ≤ 16 ∧ ((4 : Byte) = 0 ∨ 3 < (4 : Byte).toNat) ∧
    ((after (.programFuse 0 2 15 1 [5]) idle).port.write.map (·.hold)) = some none ∧
    replyStatus idle (.programFuse 0 2 15 2 [5, 5]) = 3 :=
  ⟨ready.1, by decide, by decide, by decide +kernel, by decide +kernel⟩

/-- A part that programs one byte of PROFILE. -/
def programming : State := idle.setWrite (some
  { req := controlRecord idle.control.key 0 0x70 [2, 15, 1, 5], accepted := 0, hold := none,
    stage := .fuseProgramming { group := .profile, offset := 15, data := [5] }, decision := none })

theorem test_hyps_FuseCommands_completion :
    (programming.atRest ∧ ∃ w, programming.port.write = some w ∧
      w.stage = .fuseProgramming { group := .profile, offset := 15, data := [5] }) ∧
    15 < (profile : List Byte).length ∧ ([5] : List Byte).length = ([4] : List Byte).length := ⟨⟨rfl, _, rfl, rfl⟩, by decide, rfl⟩

theorem test_hyps_SoftResetIsAccepted :
    let s := with23 (.opened · stopped)
    (s.ReadyFor 0 ∧ 1 < (2 : Byte).toNat ∧ s.unwritten = true ∧ s.seq.st = .idle ∧ idle.unwritten = false) ∧
    (asleep.ReadyFor 0 ∧ asleep.seq.st ≠ .idle ∧ asleep.seq.st ≠ .stalled) ∧
    ((quick asleep).ReadyFor 0 ∧ (quick asleep).seq.st = .asleep ∧ (quick asleep).wakeDelay = 0) ∧
    ((seqIn .stalled (powerIn .drain idle)).ReadyFor 0 ∧ (seqIn .stalled (powerIn .drain idle)).power.st = .drain) :=
  ⟨⟨⟨rfl, rfl, rfl, rfl, rfl, rfl, rfl⟩, by decide, rfl, rfl, rfl⟩,
    ⟨⟨rfl, rfl, rfl, rfl, rfl, rfl, rfl⟩, by decide, by decide⟩, ⟨⟨rfl, rfl, rfl, rfl, rfl, rfl, rfl⟩, rfl, rfl⟩,
    ⟨rfl, rfl, rfl, rfl, rfl, rfl, rfl⟩, rfl⟩

/-- An accepted soft reset with the sequencer IDLE. -/
def resetting : State := (idle.withControl { idle.control with softReset := true }).setWrite (some
  { req := controlRecord idle.control.key 0 0x03 [1], accepted := 0, hold := none, stage := .softReset, decision := none })

theorem test_hyps_SoftResetTakesEffect :
    let high := resetting.withPower { resetting.power with pwrwarn := true }
    (resetting.softResetDue = true ∧ (∃ w, resetting.port.write = some w) ∧ resetting.power.pwrwarn = false) ∧
    (high.softResetDue = true ∧ (∃ w, high.port.write = some w) ∧ high.power.pwrwarn = true ∧ high.power.st ≠ .unconfigured ∧
      (powerIn .unconfigured high).power.st = .unconfigured) := ⟨⟨rfl, ⟨_, rfl⟩, rfl⟩, rfl, ⟨_, rfl⟩, rfl, by decide, rfl⟩

/-! ### Hypotheses met: supply, RESET pin, start-up -/

/-- A part with a valid PROFILE group, of a wake delay. -/
def fused (delay : Byte) (s : State) : State := s.withFuses { s.fuses with profile := profile.set 15 delay }

/-- Off, held in reset, both; a fuse programming cut short; an invalid and a valid profile, with a delay and without. -/
theorem test_hyps_StartUp :
    let off := { idle with powered := false }
    let held := { idle with resetHeld := true }
    (∀ w job, idle.port.write = some w → w.stage ≠ .fuseProgramming job) ∧
    (∃ w, programming.port.write = some w ∧ w.stage = .fuseProgramming { group := .profile, offset := 15, data := [5] }) ∧
    (off.powered = false ∧ off.resetHeld = false ∧ profileValid off.fuses.profile = false) ∧
    (held.powered = true ∧ held.resetHeld = true ∧ profileValid held.fuses.profile = false) ∧
    (profileValid (fused 5 off).fuses.profile = true ∧ (byteAt (fused 5 off).fuses.profile 15).toNat ≠ 0) ∧
    (profileValid (fused 0 held).fuses.profile = true ∧ (byteAt (fused 0 held).fuses.profile 15).toNat = 0) ∧
    ({ off with resetHeld := true }.powered = false ∧ { off with resetHeld := true }.resetHeld = true) ∧
    (idle.powered = true ∧ idle.resetHeld = false ∧ ∃ t, exec .powerLoss idle = .next t) := by
  refine ⟨fun w job h => (by cases h), ⟨_, rfl, rfl⟩, ⟨rfl, rfl, by decide⟩, ⟨rfl, rfl, by decide⟩, by decide, by decide,
    ⟨rfl, rfl⟩, rfl, rfl, _, rfl⟩

/-- The status bytes of the tests: ready, busy, suspended, failed. -/
theorem test_status :
    idle.shown 0x00 = .ready ∧ idle.shown 0x01 = .busy ∧ idle.shown 0x80 = .suspended ∧ idle.shown 0x81 = .busy ∧
    idle.failed 0x20 = true ∧ idle.failed 0x00 = false := by decide

/-- PWRWARN high. -/
def warned (s : State) : State := s.withPower { s.power with pwrwarn := true }

theorem test_hyps_WakeAndStartUpWait :
    let waking := seqIn (.waking idle.now) (powerIn .waking idle)
    let starting := seqIn (.waking idle.now) (powerIn .starting idle)
    let waiting := seqIn (.startupWait idle.now false) (powerIn .starting idle)
    (waking.seq.st = .waking waking.now ∧ waking.power.st ≠ .starting) ∧
    (starting.seq.st = .waking starting.now ∧ starting.power.st = .starting ∧ starting.power.pwrwarn = false ∧
      (warned starting).power.pwrwarn = true ∧ (warned starting).seq.st = .waking starting.now) ∧
    (starting.shown 0x00 = .ready ∧ starting.shown 0x01 = .busy ∧ starting.shown 0x80 = .suspended) ∧
    idle.seq.st ≠ .waking idle.now ∧
    (waiting.seq.st = .startupWait waiting.now false ∧ waiting.power.pwrwarn = false ∧ (warned waiting).power.pwrwarn = true) ∧
    ∀ r, idle.seq.st ≠ .startupWait idle.now r := by
  refine ⟨⟨rfl, by decide⟩, ⟨rfl, rfl, rfl, rfl, rfl⟩, ⟨rfl, rfl, rfl⟩, by decide, ⟨rfl, rfl, rfl⟩, fun r h => (by cases h)⟩

/-! ### Hypotheses met: the port -/

/-- A read of the queue, with a tag. -/
def read (tag : Nat) (line : Addr) (stage : ReadStage) : Read :=
  { tag := tag, req := { line := line, offset := 0, length := 4 }, decision := none, stage := stage }

/-- A write of one byte in the lane, at a stage. -/
def writing (line : Addr) (stage : WriteStage) : WriteInProgress :=
  { req := { line := line, offset := 0, bytes := [some 0] }, accepted := 0, hold := some 3000, stage := stage, decision := none }

/-- The part with a write in the lane. -/
def laneHolds (w : WriteInProgress) (s : State) : State := s.setWrite (some w)

/-- The part with one enabled rule of an action over the whole flash. -/
def ruled (a : RuleAction) : State := idle.withRule { idle.rule with
  rules := [Rule.zero, { Rule.zero with enabled := true, addr2 := 0x3FFFC0, applies := .both, action := a }] }

/-- A FAULTED entry from which a read holds a result behind a miss: it goes on as a miss, or waits on the record itself. -/
theorem test_hyps_FaultCommandsActOnTheFaultedEntry_held :
    let got := read 1 0x23040 (.resolved (.ok [0, 0, 0, 0] (.entry 3)))
    let s := seqIn (.reading (.miss 0)) ((with23 (.faulted · fault)).setReads [read 0 0x40 .miss, got])
    let freed (line : Addr) := (s.clearOut.executing line 0x43 (le2 0x23)).withStaging
      { s.staging with entries := s.staging.entries.set 3 .free }
    (s.ReadyFor 0 ∧ s.ReadyFor 0x23040 ∧ s.seq.powerReq = none ∧ s.beyondSectors 0x23 = false ∧ s.staging.find 0x23 = some 3 ∧
      s.staging.entry 3 = .faulted (sector 0x23 [] [(0, 0)]) fault ∧ s.port.reads.filter (Read.fromEntry 3 0x23) = [got]) ∧
    ResolvesAfresh (freed 0) [got] (((freed 0).setStage 1 .miss).missArrives 1) ∧
    ResolvesAfresh (freed 0x23040) [got] ((freed 0x23040).setStage 1 .waitingHazard) :=
  ⟨⟨⟨rfl, rfl, rfl, rfl, rfl, rfl, rfl⟩, ⟨rfl, rfl, rfl, rfl, rfl, rfl, rfl⟩, rfl, rfl, rfl, rfl, rfl⟩,
    .goesOn _ _ _ _ _ _ rfl rfl (.miss rfl (by decide) rfl (by decide) (fun h => by cases h)) (.done _),
    .waits _ _ _ _ _ rfl rfl (.done _)⟩

/-- Lanes closed, a full lane, each check of acceptance at its boundary, DENY, a hazard and none. -/
theorem test_hyps_ReadRequestTakesItsStages :
    let closed := idle.withPort { idle.port with lanesOpen := false }
    let full := idle.setReads [read 0 0 .miss, read 1 0 .miss, read 2 0 .miss, read 3 0 .miss]
    let un := powerIn .unconfigured idle
    let laid := un.withControl { un.control with overlay := some { line := 0x40, count := 1, bytes := [9], expiry := 0 } }
    let held := laneHolds (writing 0x40 (.held .captureSpace)) idle
    (closed.atRest ∧ closed.port.lanesOpen = false) ∧ (full.atRest ∧ 4 ≤ full.port.reads.length) ∧
    (idle.atRest ∧ idle.port.lanesOpen = true ∧ idle.port.reads.length < 4 ∧ 64 < 1 + 64 ∧ 0 + 64 ≤ 64) ∧
    (un.atRest ∧ un.power.st = .unconfigured ∧ un.hazard 0x40 = false ∧ (programming.withControl laid.control).hazard 0 = true ∧
      (powerIn .unconfigured programming).atRest ∧ un.control.overlay = none ∧
      un.overlayBytes { line := 0x40, offset := 0, length := 4 } = none) ∧
    (laid.control.overlay = some { line := 0x40, count := 1, bytes := [9], expiry := 0 } ∧ (0x40 / 64 ≤ 0x40 / 64 ∧ 0x40 / 64 < 0x40 / 64 + 1) ∧
      ¬ (0x40 / 64 ≤ 0x80 / 64 ∧ 0x80 / 64 < 0x40 / 64 + 1)) ∧
    (laid.atRest ∧ laid.overlayBytes { line := 0x40, offset := 0, length := 4 } = some [9, 0, 0, 0]) ∧
    (idle.pastWindow 0x400000 0 1 = true ∧ idle.pastWindow 0x3FFFC0 0 64 = false ∧ idle.power.st ≠ .unconfigured) ∧
    ((ruled .deny).atRest ∧ ((ruled .deny).decisionFor .read 0x40).action = .deny) ∧
    (held.atRest ∧ (held.decisionFor .read 0x40).action ≠ .deny ∧ held.hazard 0x40 = true) ∧
    ((idle.decisionFor .read 0x40).action ≠ .deny ∧ idle.hazard 0x40 = false) := by
  refine ⟨⟨rfl, rfl⟩, ⟨rfl, by decide⟩, ⟨rfl, rfl, by decide, by decide, by decide⟩, ⟨rfl, rfl, rfl, rfl, rfl, rfl, rfl⟩,
    ⟨rfl, by decide, by decide⟩, ⟨rfl, by decide⟩, by decide, ⟨rfl, by decide⟩, ⟨rfl, by decide, by decide⟩, by decide, by decide⟩

/-- A read of the control line in UNCONFIGURED waits while a PROGRAM-FUSE record holds the lane, and is then served from the
reply (R180, R88). -/
theorem test_unconfiguredReadWaits :
    let s := after (.readRequest 0 0 4) (powerIn .unconfigured programming)
    s.answers = [] ∧ s.port.reads.map (·.stage) = [.waitingHazard] ∧
    (after (.fuseProgrammingCompletion []) s).answers.map (·.result) = [.ok [], .ok [0x00, 0x70, 0x05, 0x00]] := by decide +kernel

/-- At the end of start-up a waiting write is answered before the waiting read (R84, R94). -/
theorem test_writeAnsweredFirst :
    let s := (seqIn (.waking idle.now) (powerIn .starting idle)).withPort
      { idle.port with lanesOpen := false, waitReads := [{ line := 0, offset := 60, length := 8 }],
                       waitWrites := [{ line := 0, offset := 60, bytes := List.replicate 8 (some 0) }] }
    (after (.wakeEnd 0x00) s).answers.map (·.access) = [.write, .read] := by decide +kernel

/-- A read the refusal of W resolves is answered with the bytes of that moment, before W2 is accepted (R86, R99, the example
of chapter 4). -/
theorem test_readAnsweredBeforeTheNextWrite :
    let w2 : WriteReq := { line := 0x40, offset := 0, bytes := List.replicate 4 (some 7) }
    let s := laneHolds { writing 0x40 (.held .captureSpace) with hold := some 0 } (holding 0 (.clean (sector 0 [] [])) idle)
    let t := after .holdTimerExpiry
      (s.withPort { s.port with reads := [read 0 0x40 .waitingHazard], waitWrites := [w2] })
    t.answers.map (·.access) = [.write, .read, .write] ∧
      t.answers.map (·.result) = [.err .holdExpired, .ok [0xFF, 0xFF, 0xFF, 0xFF], .ok []] := by decide +kernel

/-- The oldest read RESOLVED with bytes, with a refusal, and not; one read and two reads whose hazard is over. -/
theorem test_hyps_ReadAnswersAndHazardReleases :
    let one := idle.setReads [read 0 0x40 .waitingHazard]
    let two := idle.setReads [read 0 0x40 .waitingHazard, read 1 0x80 .waitingHazard]
    let x := (two.clearOut.setStage 0 .miss).missArrives 0
    (∃ r, (idle.setReads [read 0 0 (.resolved (.ok [1] .flash))]).port.reads = r :: [] ∧ r.stage = .resolved (.ok [1] .flash)) ∧
    (∃ r, (idle.setReads [read 0 0 (.resolved (.err .badSpan))]).port.reads = r :: [] ∧ r.stage = .resolved (.err .badSpan)) ∧
    (∃ r, one.port.reads = r :: [] ∧ ∀ x, r.stage ≠ .resolved x) ∧
    ContinueInTurn one.clearOut (one.port.reads.filter one.hazardOver) ((one.clearOut.setStage 0 .miss).missArrives 0) ∧
    ContinueInTurn two.clearOut (two.port.reads.filter two.hazardOver) ((x.setStage 1 .miss).missArrives 1) ∧
    two.hazardOver (read 0 0x40 .waitingHazard) = true ∧
    ((laneHolds (writing 0x40 (.held .captureSpace)) two).port.reads.filter
      (laneHolds (writing 0x40 (.held .captureSpace)) two).hazardOver = [read 1 0x80 .waitingHazard]) ∧
    idle.port.reads.filter idle.hazardOver = [] := by
  refine ⟨⟨_, rfl, rfl⟩, ⟨_, rfl, rfl⟩, ⟨_, rfl, fun x h => (by cases h)⟩, ?_, ?_, rfl, by decide, rfl⟩
  · exact .goesOn _ _ _ (read 0 0x40 .waitingHazard) (read 0 0x40 .waitingHazard) [] rfl
      (.miss rfl (by decide) rfl (by decide) (fun h => (by cases h))) (.done _)
  · exact .goesOn _ _ _ (read 0 0x40 .waitingHazard) (read 0 0x40 .waitingHazard) [read 1 0x80 .waitingHazard] rfl
      (.miss rfl (by decide) rfl (by decide) (fun h => (by cases h)))
      (.goesOn _ _ _ (read 1 0x80 .waitingHazard) (read 1 0x80 .waitingHazard) [] rfl
        (.miss rfl (by decide) rfl (by decide) (fun h => (by cases h))) (.done _))

/-- A keyed full line whose check field is wrong. -/
def badCheck : WriteReq := { line := 0, offset := 0, bytes := (idle.control.key ++ List.replicate 56 0).map some }

/-- A keyed full line whose check field holds, with bytes after the last argument. -/
def record9 : WriteReq :=
  { line := 0, offset := 0, bytes := (idle.control.key ++ (0x02 :: 0x01 :: List.replicate 52 7) ++
      crcField (crc16 (0x02 :: 0x01 :: List.replicate 52 7))).map some }

/-- A record that carries anything after its last argument is executed; a read that holds bytes of the overlay it ends. -/
theorem test_hyps_WritesTakeTheirStages_record :
    let laid := idle.withControl { idle.control with overlay := some { line := 0x40, count := 1, bytes := [9], expiry := 5 } }
    let held := read 0 0x40 (.resolved (.ok [9, 0, 0, 0] .overlay))
    let got := laid.setReads [read 1 0 .miss, held]
    let w := got.accepted record9
    let ended := ((got.clearOut.setGuard false).setWrite (some { w with hold := none, stage := .control })).withControl
      { got.control with overlay := none }
    (idle.ReadyToWrite ∧ idle.badSpan record9 = false ∧ idle.control.enable = true ∧ idle.control.overlay = none) ∧
    (∃ bs, keyedLine idle.control.key record9 = some bs ∧ checkHolds bs = true) ∧
    (got.ReadyToWrite ∧ got.control.overlay ≠ none ∧ got.port.reads.filter Read.fromOverlay = [held]) ∧
    ResolvesAfresh ended [held] ((ended.setStage 0 .miss).missArrives 0) ∧
    (List.replicate 53 (0 : Byte)).length = 53 := by
  refine ⟨⟨⟨rfl, rfl, rfl⟩, by decide +kernel, rfl, rfl⟩, ⟨_, rfl, by decide +kernel⟩, ⟨⟨rfl, rfl, rfl⟩, by decide, by decide⟩, ?_, by decide⟩
  exact .goesOn _ _ _ _ (read 0 0x40 (.resolved (.ok [9, 0, 0, 0] .overlay))) _ rfl rfl
    (.miss rfl (by decide) rfl (by decide) (fun h => (by cases h))) (.done _)

/-- Waiting; the span crossing, nothing selected, the window's end; not keyed, enable off; keyed with a wrong check; the three
holds that end, and one that does not. -/
theorem test_hyps_WritesTakeTheirStages :
    let closed := idle.withPort { idle.port with lanesOpen := false }
    let off := idle.withControl { idle.control with enable := false }
    let req : WriteReq := { line := 0x40, offset := 0, bytes := [some 0] }
    (closed.atRest ∧ closed.port.lanesOpen = false) ∧
    (idle.ReadyToWrite ∧ idle.badSpan { req with offset := 64 } = true ∧ idle.badSpan { req with offset := 63 } = false ∧
      idle.badSpan { req with bytes := [none] } = true ∧ keyedLine idle.control.key req = none) ∧
    (off.ReadyToWrite ∧ off.control.enable = false) ∧
    (idle.badSpan badCheck = false ∧ idle.control.enable = true ∧
      ∃ bs, keyedLine idle.control.key badCheck = some bs ∧ checkHolds bs = false) ∧
    ((laneHolds (writing 0x40 (.held .waking)) idle).port.write = some (writing 0x40 (.held .waking)) ∧ idle.power.st = .run) ∧
    (∀ i, (laneHolds (writing 0x40 (.held .committing)) idle).staging.find (sectorOf 0x40) = some i →
      ((laneHolds (writing 0x40 (.held .committing)) idle).staging.entry i).isCommitting = false) ∧
    (laneHolds (writing 0x40 (.held .noEntry)) idle).staging.place idle.now ≠ none ∧
    (laneHolds (writing 0x40 (.held .captureSpace)) idle).canReleaseWrite = false := by
  refine ⟨⟨rfl, rfl⟩, ⟨⟨rfl, rfl, rfl⟩, by decide, by decide, by decide, by decide⟩, ⟨⟨rfl, rfl, rfl⟩, rfl⟩,
    ⟨by decide, rfl, _, rfl, by decide +kernel⟩, ⟨rfl, rfl⟩, fun i h => (by cases h), by decide, rfl⟩

/-- The last byte of a sector. -/
theorem test_hyps_MergesFollowTheEntryState : Memory.wf [(0, 1), (4095, 2)] = true ∧ 4095 + [some (3 : Byte)].length ≤ 4096 := by decide

/-- No overlay, one that does not hold the line, one that does; no read with its bytes, and one; results that change and not; an
entry with images. -/
theorem test_hyps_WriteAnswersHaveTheirEffects :
    let o : Overlay := { line := 0x40, count := 8, bytes := [], expiry := 0 }
    let laid := idle.withControl { idle.control with overlay := some o }
    let held := read 0 0x80 (.resolved (.ok [0, 0, 0, 0] .overlay))
    let got := laid.setReads [held]
    let ended := (got.setWrite none).withControl { got.control with overlay := none }
    (∀ o, idle.control.overlay = some o → False) ∧
    (laid.control.overlay = some o ∧ ¬ (0x40 / 64 ≤ 0 / 64 ∧ 0 / 64 < 0x40 / 64 + 8) ∧ 0x40 / 64 ≤ 0x200 / 64 ∧ 0x200 / 64 < 0x40 / 64 + 8 ∧
      laid.port.reads.all (fun r => !r.fromOverlay) = true) ∧
    (got.port.reads.filter Read.fromOverlay = [held] ∧ ResolvesAfresh ended [held] ((ended.setStage 0 .miss).missArrives 0)) ∧
    (held.stage = .resolved (.ok [0, 0, 0, 0] .overlay) ∧ held.req.line = 0x80 ∧ (read 0 0x80 .miss).req.line ≠ 0) ∧
    (Entry.clean (sector 1 [] [])).data? = some (sector 1 [] []) := by
  refine ⟨fun o h => (by cases h), ⟨rfl, by decide, by decide, by decide, rfl⟩, ⟨rfl, ?_⟩, ⟨rfl, rfl, by decide⟩, rfl⟩
  exact .goesOn _ _ _ _ (read 0 0x80 (.resolved (.ok [0, 0, 0, 0] .overlay))) _ rfl rfl
    (.miss rfl (by decide) rfl (by decide) (fun h => (by cases h))) (.done _)

/-! ### Hypotheses met: rules, queues, events, entries -/

/-- A deciding rule behind one that does not decide, and a list that decides nothing. -/
theorem test_hyps_TheFirstDecidingRuleDecides :
    let s := ruled .deny
    (∃ r, s.rule.rules[1]? = some r ∧ r.enabled = true ∧ r.kind = .range ∧ r.addr1.toNat ≤ (0x3FFFC0 : Addr).toNat ∧
      (0x3FFFC0 : Addr).toNat ≤ r.addr2.toNat ∧ r.applies = .both ∧ r.action ≠ .latch) ∧
    (∀ j r', j < 1 → s.rule.rules[j]? = some r' → r'.enabled = false) ∧ (∀ r ∈ idle.rule.rules, r.enabled = false) ∧
    (∃ d : Decision, d.rule = .rule 3 ∧ d.urgent = true) ∧ idle.rule.defaultDecision.urgent = false := by
  refine ⟨⟨_, rfl, rfl, rfl, by decide, by decide, rfl, by decide⟩, fun j r' hj h => ?_, by decide, ⟨⟨.rule 3, .deny, none, false, true⟩, rfl, rfl⟩, rfl⟩
  have : j = 0 := by omega
  subst this
  cases h; rfl

/-- An urgent rule that decides a read and a write. -/
theorem test_hyps_TheFirstDecidingRuleDecides_urgent :
    let s := idle.withRule { idle.rule with
      rules := [{ Rule.zero with enabled := true, addr2 := 0x3FFFC0, applies := .both, urgent := true }] }
    let req : WriteReq := { line := 0x40, offset := 0, bytes := [some 1] }
    s.atRest ∧ s.port.lanesOpen = true ∧
    ((s.decisionFor .read 0x40).rule = .rule 0 ∧ (s.decisionFor .read 0x40).urgent = true ∧ s.port.reads.length < 4 ∧
      s.power.st ≠ .unconfigured ∧ s.pastWindow 0x40 0 64 = false) ∧
    ((s.decisionFor .write 0x40).rule = .rule 0 ∧ (s.decisionFor .write 0x40).urgent = true ∧ s.port.write = none ∧
      s.badSpan req = false ∧ keyedLine s.control.key req = none ∧ s.power.st = .run) := by
  refine ⟨rfl, rfl, ⟨by decide, by decide, by decide, by decide, by decide⟩, by decide, by decide, rfl, by decide, by decide, rfl⟩

theorem test_hyps_FenceProtectsItsArea :
    let s (side : FenceSide) (i : Bool) := idle.withRule { idle.rule with fence := { size := 7, side := side, invert := i } }
    ∀ side i, (s side i).windowSize = some 0x400000 ∧ (s side i).rule.fence.size ≤ 7 ∧ (s side i).rule.fence.side = side ∧
      (s side i).rule.fence.invert = i := fun _ _ => ⟨rfl, Nat.le_refl 7, rfl, rfl⟩

/-- The five size codes, and a part without a profile; the last sector of 4 MiB and the one after it. -/
theorem test_window :
    ([1, 2, 3, 4, 5].map fun c => ({ idle with profile := some (profile.set 0 c) } : State).windowSize) =
      [some 0x100000, some 0x200000, some 0x400000, some 0x800000, some 0x1000000] ∧
    State.reset.windowSize = none ∧ idle.beyondSectors 0x3FF = false ∧ idle.beyondSectors 0x400 = true := by decide

/-- Fence boundaries: size code 1 of 4 MiB protects the lowest 64 KiB, or all but it. -/
theorem test_inFence :
    let s (side : FenceSide) (i : Bool) := idle.withRule { idle.rule with fence := { size := 1, side := side, invert := i } }
    [(s .low false).inFence 0x00FFC0, (s .low false).inFence 0x010000, (s .high false).inFence 0x3EFFC0,
      (s .high false).inFence 0x3F0000, (s .low true).inFence 0x00FFC0, (s .low true).inFence 0x010000,
      (s .high true).inFence 0x3EFFC0, (s .high true).inFence 0x3F0000] =
    [true, false, false, true, false, true, true, false] := by decide

/-- A queue one below its capacity, with a reservation that makes it full, and a full one. -/
theorem test_hyps_PutsFollowTheModeOfTheQueue :
    let q (n : Nat) (r : Bool) (m : QueueMode) : CaptureQueue :=
      { CaptureQueue.initial 12 with records := List.replicate n (record 0), reserved := r, mode := m }
    (true && (q 15 true .strict).reserved) = true ∧ (q 15 false .lossy).hasRoom 16 = true ∧
    (q 15 true .overwrite).hasRoom 16 = false ∧ (q 16 false .overwrite).hasRoom 16 = false ∧ (q 16 false .lossy).mode ≠ .overwrite := by
  decide

theorem test_hyps_FlagsAndLines :
    Event.slotFilled ≠ .urgentAccess ∧
    ∀ e ∈ staged.staging.entries, ∀ d, e.data? = some d → Memory.wf d.base = true ∧ Memory.wf d.work = true :=
  ⟨by decide, test_hyps_StepsKeepTheStagingLaw.1.images⟩

theorem test_hyps_ClosesFollowTheEntryState :
    let g (e : Sector → Entry) := (with23 e).staging
    let d := sector 0x23 [] [(0, 0)]
    3 < (g .clean).entries.length ∧ (0 : Nat) ≠ 3 ∧ ((g (.opened · stopped)).entry 3 = .opened d stopped ∧ hasDirty d = true) ∧
    ((holding 3 (.opened (sector 1 [] []) stopped) idle).staging.entry 3 = .opened (sector 1 [] []) stopped ∧
      hasDirty (sector 1 [] []) = false) ∧
    (g (.filling · filling)).entry 3 = .filling d filling ∧
    ((∀ d t, (g .clean).entry 3 ≠ .opened d t) ∧ ∀ d f, (g .clean).entry 3 ≠ .filling d f) := by
  refine ⟨by decide, by decide, ⟨rfl, by decide⟩, ⟨rfl, by decide⟩, rfl, fun d t h => (by cases h), fun d f h => (by cases h)⟩

/-- Equal elapsed times go to the lowest number, an older tick before a newer, across the wrap of the counter. -/
theorem test_hyps_TheOldestEntryIsPicked :
    let c (t : Tick) : Entry := .clean { sector 1 [] [] with lastUse := t }
    pickOldest cleanUse 5 0 [c 1, c 0xFFFFFFFF, c 0xFFFFFFFF] = some (1, 6) ∧ pickOldest cleanUse 5 0 [.free] = none ∧
    (idle.staging.entries[0]? = some .free ∧ idle.staging.pressureEntry 0 = none) ∧
    (({ idle.staging with entries := [c 1, c 0] } : Staging).place 5 = some 1 ∧ ∀ e ∈ [c 1, c 0], e ≠ .free) ∧
    ({ idle.staging with entries := [.opened (sector 1 [] [(0, 0)]) stopped] } : Staging).pressureEntry 5 = some 0 := by decide

theorem test_hyps_CommitPlansWriteTheWorkingImage :
    let d := sector 1 [(0, 0)] [(0, 1), (4095, 0)]
    Memory.wf d.base = true ∧ Memory.wf d.work = true ∧ planOf d .flush = .eraseThenProgram ∧
    pageList d .programOnly = [0, 15] ∧ pageList (sector 1 [(256, 0)] [(0, 1), (256, 0)]) .programOnly = [0] ∧
    pageList (sector 1 [(256, 0)] [(0, 1), (256, 0)]) .eraseThenProgram = [0, 1] ∧
    firstStep (planOf (sector 1 [] []) .flush) (pageList (sector 1 [] []) (planOf (sector 1 [] []) .flush)) = none := by decide +kernel

/-! ### Hypotheses met: the sequencer -/

/-- A resumed operation, one tick before its spacing has passed. -/
def resumed : FlashOp := { fresh .erase with lastResume := some 0xFFFFFFF7, suspCount := 2 }

/-- SUSPENDED; BUSY with the spacing passed, with it not yet passed, with the budget spent; any other state. -/
theorem test_hyps_MissesArriveInOrder :
    let busy (op : FlashOp) := seqIn (.busy op) idle
    (seqIn (.suspended (fresh .erase) [1]) idle).seq.st = .suspended (fresh .erase) [1] ∧
    ((busy resumed).seq.st = .busy resumed ∧ (busy resumed).maySuspend resumed = true ∧ (busy resumed).spacingPassed resumed = false ∧
      ¬ (busy resumed).seq.policy.resumeSpacing ≤ ((busy resumed).now - 0xFFFFFFF7).toNat) ∧
    ((busy (fresh .erase)).maySuspend (fresh .erase) = true ∧ (busy (fresh .erase)).spacingPassed (fresh .erase) = true) ∧
    (busy { resumed with suspCount := 3 }).maySuspend { resumed with suspCount := 3 } = false ∧
    ((∀ op l, idle.seq.st ≠ .suspended op l) ∧ ∀ op, idle.seq.st ≠ .busy op) := by
  refine ⟨rfl, ⟨rfl, by decide, by decide, by decide⟩, ⟨by decide, by decide⟩, by decide, fun op l h => (by cases h),
    fun op h => (by cases h)⟩

/-- A part whose entry 3 is COMMITTING at a step. -/
def committing (step : CommitStep) (attempts : Nat) (pages : List Nat) : State :=
  with23 (.committing · .flush { plan := .eraseThenProgram, pages := pages, step := step, attempts := attempts })

/-- A part whose entry 3 is CLOSED, with images. -/
def queued (d : Sector) : State :=
  let s := holding 3 (.closed d .flush) idle
  s.withStaging { s.staging with closeQueue := [3] }

/-- A miss, a fill, each step of a COMMITTING entry, each plan of a CLOSED one, SLEEP in DRAIN and outside, nothing. -/
theorem test_hyps_GrantsFollowClassAndShare :
    let missed := (idle.setReads [read 0 0x40 .miss]).withSeq { idle.seq with misses := [0] }
    let filled := idle.withSeq { idle.seq with fills := [{ sector := 1, page := 15 }] }
    let sleeping := idle.setPowerReq (some .sleep)
    let overdue := (queued (sector 1 [] [(0, 0)])).withSeq { idle.seq with fills := [{ sector := 1, page := 0 }], share := 16 }
    (missed.seq.st = .idle ∧ missed.control.softReset = false ∧ missed.staging.hasClaim = false ∧
      missed.readOf 0 = some (read 0 0x40 .miss)) ∧
    (filled.seq.misses = [] ∧ filled.seq.fills = [{ sector := 1, page := 15 }]) ∧
    (∀ p ∈ [CommitStep.erase, .program 0, .verify 0], (committing p 1 [0]).staging.committingIndex = some 3 ∧
      (committing p 1 [0]).staging.hasClaim = true) ∧
    (planOf (sector 1 [(0, 0)] []) .flush = .eraseThenProgram ∧
      (queued (sector 1 [(0, 0)] [])).staging.committingIndex = none ∧ (queued (sector 1 [(0, 0)] [])).staging.closeQueue = [3]) ∧
    (planOf (sector 1 [] [(0, 0)]) .flush = .programOnly ∧ pageList (sector 1 [] [(0, 0)]) .programOnly = [0]) ∧
    (planOf (sector 1 [] []) .flush = .programOnly ∧ pageList (sector 1 [] []) .programOnly = []) ∧
    (overdue.staging.hasClaim = true ∧ overdue.seq.policy.commitShare ≤ overdue.seq.share) ∧
    (sleeping.seq.powerReq = some .sleep ∧ sleeping.staging.hasClaim = false ∧ (powerIn .drain sleeping).power.st = .drain ∧
      sleeping.power.st ≠ .drain) ∧ idle.seq.powerReq ≠ some .sleep := by
  decide +kernel

/-- The READ of a miss with its 64 bytes: a hazard, an overlay, no entry, FILLING, a hit. -/
theorem test_hyps_MissReadCompletes :
    let s := seqIn (.reading (.miss 0)) (idle.setReads [read 0 0x23040 .miss])
    let put (e : Sector → Entry) := holding 3 (e (sector 0x23 [] [(0, 0)])) s
    let req := (read 0 0x23040 .miss).req
    (s.readOf 0 = some (read 0 0x23040 .miss) ∧ (List.replicate 64 (0 : Byte)).length = 64 ∧ s.seq.st = .reading (.miss 0)) ∧
    (laneHolds (writing 0x23040 (.held .captureSpace)) s).hazard 0x23040 = true ∧
    (s.hazard 0x23040 = false ∧ s.overlayBytes req = none ∧ s.staging.find (sectorOf 0x23040) = none) ∧
    (s.withControl { s.control with overlay := some { line := 0x23040, count := 1, bytes := [], expiry := 0 } }).overlayBytes req =
      some [0, 0, 0, 0] ∧
    ((put (.filling · filling)).staging.find (sectorOf 0x23040) = some 3 ∧ ((put .clean).staging.entry 3).isFilling = false ∧
      ((put .clean).staging.entry 3).data? = some (sector 0x23 [] [(0, 0)])) := by
  decide +kernel

/-- An accepted soft reset with each READ in flight, and with an operation in BUSY, SUSPENDING and RESUMING. -/
theorem test_hyps_softResetInProgress :
    let s (x : SeqState) := seqIn x (laneHolds (writing 0x40 .softReset) ((committing .erase 1 [0]).withControl resetting.control))
    let op := fresh .erase
    (s .idle).control.softReset = true ∧ (s .idle).readOf 0 = none ∧
    ([.reading (.miss 0), .reading (.fillPage 0x24 15), .reading (.verify 0), .busy op, .suspending op 2, .resuming op].map
      fun x => (s x).seq.st) = [.reading (.miss 0), .reading (.fillPage 0x24 15), .reading (.verify 0), .busy op, .suspending op 2,
        .resuming op] ∧
    (s (.busy op)).shown 0x00 = .ready ∧ (s (.busy op)).shown 0x20 = .ready ∧ (s (.busy op)).failed 0x20 = true ∧
    (s (.suspended op [0])).readOf 0 = none := by decide +kernel

/-- A failed ERASE under an accepted soft reset: no second attempt, the entry FREE, the record answered OK, IDLE. -/
theorem test_softResetEndsTheCommit :
    let t := after (.operationComplete 0x20) (seqIn (.busy (fresh .erase))
      (laneHolds (writing 0x40 .softReset) ((committing .erase 1 [0]).withControl resetting.control)))
    t.staging.entry 3 = .free ∧ t.staging.retry = 0 ∧ t.answers.map (·.result) = [.ok []] ∧ t.seq.st = .idle ∧
    t.control.softReset = false ∧ t.port.lanesOpen = true := by decide +kernel

/-- A fill page without an entry, pages 14 and 15 of one, no read that waits for the fill, one, and two. -/
theorem test_hyps_FillReadCompletes :
    let s (page : Nat) := seqIn (.reading (.fillPage 0x23 page)) (with23 (.filling · filling))
    let w := (s 15).setReads [read 0 0x23040 .waitingFill]
    (List.replicate 256 (0 : Byte)).length = 256 ∧ (s 15).seq.st = .reading (.fillPage 0x23 15) ∧ (s 14).control.softReset = false ∧
    idle.staging.find 0x23 = none ∧ (s 14).staging.find 0x23 = some 3 ∧
    (s 15).staging.entry 3 = .filling (sector 0x23 [] [(0, 0)]) filling ∧ (∀ j ∈ filling.written, j < 4096) ∧
    Memory.wf (imgWriteBytes [] (15 * 256) (List.replicate 256 0)) = true ∧
    (s 15).port.reads = [] ∧
    (w.setReads [read 0 0x23040 .waitingFill, read 1 0x40 .miss, read 2 0x23080 .waitingFill]).port.reads.filter
      (fun r => decide (r.stage = .waitingFill) && sectorOf r.req.line == 0x23) =
        [read 0 0x23040 .waitingFill, read 2 0x23080 .waitingFill] ∧
    w.port.reads.filter (fun r => decide (r.stage = .waitingFill) && sectorOf r.req.line == 0x23) =
      [read 0 0x23040 .waitingFill] := by
  decide +kernel

/-- A verify read, with equal bytes and with others, first and second attempt, last page and not; the counter's ends. -/
theorem test_hyps_VerifyReadCompletes :
    let s (attempts : Nat) (pages : List Nat) := seqIn (.reading (.verify 0)) (committing (.verify 0) attempts pages)
    (s 1 [0]).seq.st = .reading (.verify 0) ∧ (s 1 [0]).staging.committingIndex = some 3 ∧ (s 2 [0, 1]).control.softReset = false ∧
    (imgSpan [(0, (0 : Byte))] 0 256).length = 256 ∧ List.replicate 256 (1 : Byte) ≠ imgSpan [(0, (0 : Byte))] 0 256 ∧
    [0].filter (· ≠ 0) = [] ∧ [0, 1].filter (· ≠ 0) = [1] ∧
    (idle.withStaging { idle.staging with retry := 65534 }).staging.retry < 65535 ∧
    65535 ≤ (idle.withStaging { idle.staging with retry := 65535 }).staging.retry := by
  decide +kernel

theorem test_hyps_OperationsComplete :
    let s (op : FlashOp) (attempts : Nat) := seqIn (.busy op) (committing .erase attempts [0])
    let bare := (s (fresh (.program 0)) 1).withSeq
      { (s (fresh (.program 0)) 1).seq with policy := { FlashPolicy.default with verifyEnable := false } }
    (s (fresh .erase) 1).seq.st = .busy (fresh .erase) ∧ (s (fresh .erase) 2).control.softReset = false ∧
    (s (fresh .erase) 1).shown 0x00 = .ready ∧ (s (fresh .erase) 1).failed 0x00 = false ∧
    (s (fresh .erase) 1).shown 0x20 = .ready ∧ (s (fresh .erase) 1).failed 0x20 = true ∧ (byteAt (idle.profile.getD []) 12).toNat / 16 ≤ 1 ∧
    (s (fresh .erase) 2).staging.committingIndex = some 3 ∧ (s (fresh .erase) 1).seq.policy.verifyEnable = true ∧
    bare.seq.policy.verifyEnable = false ∧ (s (fresh .erase) 1).shown 0x01 ≠ .ready := by
  decide +kernel

theorem test_hyps_SuspensionServesTheMisses :
    let op := fresh .erase
    let s := idle.setReads [read 0 0x40 .miss, read 1 0x80 .miss]
    let susp := seqIn (.suspending op 2) (s.withSeq { s.seq with misses := [0, 1] })
    let res := seqIn (.resuming op) idle
    let due := (seqIn (.busy op) (s.withSeq { s.seq with misses := [0] })).withSeq
      { s.seq with st := .busy op, misses := [0], deferred := some 0 }
    (susp.seq.st = .suspending op 2 ∧ susp.shown 0x80 = .suspended ∧ susp.shown 0x01 = .busy ∧ susp.readOf 0 = some (read 0 0x40 .miss)) ∧
    ((seqIn (.suspending op 2) idle).seq.misses = []) ∧
    ((seqIn (.suspended op [0]) s).seq.st = .suspended op [0] ∧ (seqIn (.suspended op [0, 1]) s).seq.st = .suspended op [0, 1] ∧
      ((seqIn (.suspended op [0, 1]) s).clearOut.missComplete 0 (List.replicate 64 0)).readOf 1 = some (read 1 0x80 .miss)) ∧
    (res.seq.st = .resuming op ∧ res.shown 0x01 = .busy ∧ res.shown 0x80 = .suspended ∧ res.seq.misses = [] ∧
      (seqIn (.resuming op) due).seq.misses ≠ []) ∧
    (due.seq.deferred = some due.now ∧ due.seq.st = .busy op ∧ due.seq.misses ≠ []) ∧ idle.seq.deferred ≠ some idle.now := by
  decide +kernel

/-- The decision: allowed, with the spacing passed and not; the budget spent; a deferred suspension present and absent. -/
theorem test_hyps_SuspensionServesTheMisses_decision :
    let late : FlashOp := { resumed with lastResume := some 0xFFFFFFF6 }
    let spent : FlashOp := { resumed with suspCount := 3 }
    (idle.seq.policy.suspendEnable = true ∧ idle.power.st ≠ .emergency ∧ resumed.suspCount < idle.seq.policy.eraseBudget ∧
      idle.control.softReset = false) ∧ ¬ spent.suspCount < idle.seq.policy.eraseBudget ∧
    (resumed.lastResume = some 0xFFFFFFF7 ∧ ¬ idle.seq.policy.resumeSpacing ≤ (idle.now - 0xFFFFFFF7).toNat) ∧
    (∀ t, late.lastResume = some t → idle.seq.policy.resumeSpacing ≤ (idle.now - t).toNat) ∧
    (∀ t, (fresh .erase).lastResume = some t → idle.seq.policy.resumeSpacing ≤ (idle.now - t).toNat) ∧
    idle.seq.deferred = none := by
  refine ⟨by decide, by decide, by decide, fun t h => ?_, fun t h => (by cases h), rfl⟩
  cases h; decide

theorem test_hyps_TimeoutsStallTheSequencer :
    let op := fresh .erase
    let late := seqIn (.suspending op idle.now) (committing .erase 1 [0])
    (late.seq.st = .suspending op late.now ∧ late.shown 0x00 = .ready ∧ late.shown 0x80 ≠ .ready) ∧
    (∀ o, idle.seq.st ≠ .suspending o idle.now) ∧
    ((seqIn (.busy { op with busyTicks := 50 }) idle).seq.st = .busy { op with busyTicks := 50 } ∧
      ({ op with busyTicks := 50 } : FlashOp).timeLimit ≤ 50) ∧ ({ op with busyTicks := 49 } : FlashOp).busyTicks < op.timeLimit := by
  refine ⟨⟨rfl, by decide, by decide⟩, fun o h => (by cases h), ⟨rfl, by decide⟩, by decide⟩

/-! ### Hypotheses met: ticks, timers, power -/

theorem test_hyps_TicksCount :
    let s (x : SeqState) := (seqIn x idle).withTime { idle.time with subTick := 0 }
    (({ idle with powered := false } : State).running = false ∧ ({ idle with powered := false } : State).atRest) ∧
    idle.running = true ∧ (s .idle).NoneDue ∧ (s (.busy (fresh .erase))).NoneDue ∧ (s (.resuming (fresh .erase))).NoneDue ∧
    (s .stalled).NoneDue ∧ (s (.startupWait 2 true)).NoneDue ∧ (s (.startupWait 2 false)).NoneDue ∧
    idle.power.pwrwarn = false ∧ (warned idle).power.pwrwarn = true := by
  refine ⟨⟨rfl, rfl⟩, rfl, noneDue_idle 0 ?_ ?_ ?_ ?_, noneDue_idle 0 ?_ ?_ ?_ ?_, noneDue_idle 0 ?_ ?_ ?_ ?_, noneDue_idle 0 ?_ ?_ ?_ ?_,
    noneDue_idle 0 ?_ ?_ ?_ ?_, noneDue_idle 0 ?_ ?_ ?_ ?_, rfl, rfl⟩ <;>
  first
  | (simp; done)
  | decide

/-- A timer expires in the event of the increment that reaches its tick, and not in the one before. -/
theorem test_tickExpires :
    let s := with23 fun d => .opened d { idle := some 2, age := none }
    let t := after (.tick 0) s
    t.staging.entry 3 = s.staging.entry 3 ∧ (after (.tick 0) t).staging.entry 3 ≠ s.staging.entry 3 ∧
    (after (.tick 0) t).now = 2 := by decide +kernel

theorem test_hyps_EntryTimersCloseTheEntry :
    let due : Timers := { idle := some 0, age := some 0 }
    let later : Timers := { idle := some 1, age := none }
    3 < idle.staging.entries.length ∧ ((with23 (.opened · due)).staging.entry 3 = .opened (sector 0x23 [] [(0, 0)]) due ∧
      due.idle = some idle.now ∧ due.age = some idle.now ∧ hasDirty (sector 0x23 [] [(0, 0)]) = true ∧
      hasDirty (sector 1 [] []) = false) ∧ (later.idle ≠ some idle.now ∧ later.age ≠ some idle.now) ∧
    ((with23 (.filling · filling)).staging.entry 3 = .filling (sector 0x23 [] [(0, 0)]) filling ∧
      filling.timers.idle = some idle.now ∧ filling.timers.age = some idle.now) ∧
    ((∀ d t, idle.staging.entry 15 ≠ .opened d t) ∧ ∀ d f, idle.staging.entry 15 ≠ .filling d f) := by
  refine ⟨by decide, ⟨rfl, rfl, rfl, by decide, by decide⟩, ⟨by decide, by decide⟩, ⟨rfl, rfl, rfl⟩, ?_, ?_⟩
  · intro d t; rw [entry_idle]; simp
  · intro d f; rw [entry_idle]; simp

theorem test_hyps_TimersTakeEffectAtTheirTick :
    let held := laneHolds { writing 0x40 (.held .captureSpace) with hold := some 0 } idle
    let stale := idle.withCapture { idle.capture with a := { idle.capture.a with staleExpiry := some 0 } }
    let drain := powerIn .drain (idle.withPower { idle.power with drainExpiry := some 0 })
    let o : Overlay := { line := 0x40, count := 1, bytes := [1], expiry := 0 }
    let laid := idle.withControl { idle.control with overlay := some o }
    let got := laid.setReads [read 0 0x40 (.resolved (.ok [1, 0, 0, 0] .overlay))]
    let bare := got.clearOut.withControl { got.control with overlay := none }
    (∃ w c, held.port.write = some w ∧ w.stage = .held c ∧ w.hold = some held.now) ∧
    (∀ w, idle.port.write = some w → w.hold ≠ some idle.now ∨ ∀ c, w.stage ≠ .held c) ∧
    ((stale.capture.queue .a).staleExpiry = some stale.now ∧ (stale.capture.queue .b).staleExpiry ≠ some stale.now) ∧
    (drain.power.st = .drain ∧ drain.power.drainExpiry = some drain.now ∧ idle.power.st ≠ .drain) ∧
    (laid.control.overlay = some o ∧ o.expiry = laid.now ∧
      ResolvesAfresh (laid.clearOut.withControl { laid.control with overlay := none }) (laid.port.reads.filter Read.fromOverlay)
        (laid.clearOut.withControl { laid.control with overlay := none })) ∧
    (got.control.overlay = some o ∧
      ResolvesAfresh bare (got.port.reads.filter Read.fromOverlay) ((bare.setStage 0 .miss).missArrives 0)) ∧
    (∀ o, idle.control.overlay = some o → o.expiry ≠ idle.now) := by
  refine ⟨⟨_, _, rfl, rfl, rfl⟩, fun w h => (by cases h), ⟨rfl, by decide⟩, ⟨rfl, rfl, by decide⟩, ⟨rfl, rfl, .done _⟩, ⟨rfl, ?_⟩,
    fun o h => (by cases h)⟩
  exact .goesOn _ _ _ (read 0 0x40 (.resolved (.ok [1, 0, 0, 0] .overlay))) (read 0 0x40 (.resolved (.ok [1, 0, 0, 0] .overlay))) [] rfl rfl
    (.miss rfl (by decide) rfl (by decide) (fun h => (by cases h))) (.done _)

/-- Each power state, both levels, the flash awake and asleep, a wake delay and none. -/
theorem test_hyps_PowerWarningMovesThePowerState :
    let quick := asleep.withPower { asleep.power with st := .safe, pwrwarn := true }
    (∀ x, (powerIn x idle).power.st = x ∧ (powerIn x idle).power.pwrwarn = false ∧ (warned (powerIn x idle)).power.pwrwarn = true) ∧
    (asleep.power.st = .sleep ∧ asleep.seq.st = .asleep ∧ (powerIn .sleep idle).seq.st ≠ .asleep) ∧
    (quick.power.st = .safe ∧ quick.seq.st = .asleep ∧ quick.wakeDelay ≠ 0 ∧
      ({ quick with profile := some (profile.set 15 0) } : State).wakeDelay = 0) := by
  refine ⟨fun x => ⟨rfl, rfl, rfl⟩, ⟨rfl, rfl, by decide⟩, rfl, rfl, by decide, by decide⟩

/-- DRAIN with the condition met, under both policies, and not met; EMERGENCY settled, awake and asleep, and not settled. -/
theorem test_hyps_DrainAndSafeConditions :
    let drain := powerIn .drain idle
    let awake := drain.withPower { drain.power with policy := { drain.power.policy with deepSleep := false } }
    let busy := seqIn (.busy (fresh .erase)) drain
    let warned := powerIn .emergency idle
    (drain.power.st = .drain ∧ drain.seq.powerReq ≠ some .sleep ∧ drain.control.softReset = false ∧ drain.unwritten = false ∧
      drain.seq.st = .idle ∧ drain.seq.misses = [] ∧ drain.power.policy.deepSleep = true) ∧
    (∀ w, drain.port.write = some w → w.stage ≠ .taking ∧ ∀ c, w.stage ≠ .held c) ∧ awake.power.policy.deepSleep = false ∧
    busy.seq.st ≠ .idle ∧ (warned.power.st = .emergency ∧ warned.seq.st ≠ .asleep ∧ (seqIn .asleep warned).seq.st = .asleep) ∧
    (∀ e ∈ warned.staging.entries, e = .free) ∧
    ((∀ op, warned.seq.st ≠ .busy op) ∧ (∀ op t, warned.seq.st ≠ .suspending op t) ∧ (∀ op l, warned.seq.st ≠ .suspended op l) ∧
      ∀ op, warned.seq.st ≠ .resuming op) ∧ idle.power.st ≠ .emergency := by
  refine ⟨⟨rfl, by decide, rfl, rfl, rfl, rfl, rfl⟩, fun w h => (by cases h), rfl, by decide, ⟨rfl, by decide, rfl⟩, by decide,
    ⟨fun op h => (by cases h), fun op t h => (by cases h), fun op l h => (by cases h), fun op h => (by cases h)⟩, by decide⟩

end Sys2Proof.Tests
end

section
/-! SUPPORT. A close of one entry of the staging table, by the entry's state (R9). -/

namespace Sys2Proof.Machine

namespace Staging

variable {g : Staging} {c : CloseCause} {i : Nat}

theorem close_closeQueue : (g.close c i).closeQueue =
    if closeEffect (g.entry i) = .madeClosed then g.closeQueue ++ [i] else g.closeQueue := rfl

theorem close_entry_self (h : i < g.entries.length) : (g.close c i).entry i = closedEntry c (g.entry i) := by
  rw [entry, close, List.getElem?_set_self h, Option.getD_some]

theorem close_entry_ne {j : Nat} (h : j ≠ i) : (g.close c i).entry j = g.entry j := by
  rw [entry, close, List.getElem?_set_ne h.symm, entry]

/-- Where a close neither alters the entry nor makes it CLOSED, it is no change of the staging block. -/
theorem close_eq_self (hi : i < g.entries.length) (he : closedEntry c (g.entry i) = g.entry i)
    (hq : closeEffect (g.entry i) ≠ .madeClosed) : g.close c i = g := by
  have hself : g.entry i = g.entries[i] := by rw [entry, List.getElem?_eq_getElem hi, Option.getD_some]
  rw [close, he, if_neg hq, hself, List.set_getElem_self]

end Staging

theorem closeEffect_filling_ne_madeClosed (d : Sector) (f : Filling) : closeEffect (.filling d f) ≠ .madeClosed := by
  cases h : f.closeOnFill <;> simp [closeEffect, h]

/-- An entry neither OPEN nor FILLING is left as it is, and does not become CLOSED (R9). -/
theorem close_effect_other {c : CloseCause} {e : Entry} (ho : ∀ d t, e ≠ .opened d t) (hf : ∀ d f, e ≠ .filling d f) :
    closedEntry c e = e ∧ closeEffect e ≠ .madeClosed := by
  cases e with
  | opened d t => exact absurd rfl (ho d t)
  | filling d f => exact absurd rfl (hf d f)
  | free => exact ⟨rfl, nofun⟩
  | closed d c' => exact ⟨rfl, nofun⟩
  | committing d c' p => exact ⟨rfl, nofun⟩
  | clean d => exact ⟨rfl, nofun⟩
  | faulted d r => exact ⟨rfl, nofun⟩

/-- Settles O45, row by row of R9. -/
theorem closesFollowTheEntryState : Obligations.ClosesFollowTheEntryState := by
  intro g i c hi
  refine ⟨fun j hj => Staging.close_entry_ne hj, ?dirty, ?undirty, ?filling, ?other⟩
  case dirty =>
    intro d t he hd
    rw [Staging.close_entry_self hi, Staging.close_closeQueue, he]
    simp [closedEntry, closeEffect, hd]
  case undirty =>
    intro d t he hd
    rw [Staging.close_entry_self hi, Staging.close_closeQueue, he]
    simp [closedEntry, closeEffect, hd]
  case filling =>
    intro d f he
    rw [Staging.close_entry_self hi, Staging.close_closeQueue, he, if_neg (closeEffect_filling_ne_madeClosed d f)]
    exact ⟨by rw [closedEntry, Option.or_some], rfl⟩
  case other =>
    intro ho hf
    obtain ⟨hsame, hqueue⟩ := close_effect_other ho hf
    exact Staging.close_eq_self hi hsame hqueue

end Sys2Proof.Machine
end

section
/-! SUPPORT. The order by a tick (R8) and what the table picks by it: the place of an allocation (R18, R19) and the entry pressure closes (R20). -/

namespace Sys2Proof.Machine

/-- Among the numbers that carry a tick, `i` with its tick `t` comes first in the order of R8: no elapsed time is
greater, and a lower number's is smaller. -/
def OldestAt (now : Tick) (tick : Nat → Tick → Prop) (i : Nat) (t : Tick) : Prop :=
  tick i t ∧ ∀ j u, tick j u → elapsed now u ≤ elapsed now t ∧ (j < i → elapsed now u < elapsed now t)

/-- At most one number comes first in the order of R8. -/
theorem OldestAt.unique {now : Tick} {tick : Nat → Tick → Prop} {i j : Nat} {t u : Tick}
    (hi : OldestAt now tick i t) (hj : OldestAt now tick j u) : i = j := by
  obtain ⟨hti, hi⟩ := hi
  obtain ⟨htj, hj⟩ := hj
  have hij := hi j u htj
  have hji := hj i t hti
  omega

/-- The entry at `i` carries the tick `t`. -/
def tickAt (key : Entry → Option Tick) (es : List Entry) (i : Nat) (t : Tick) : Prop :=
  ∃ e, es[i]? = some e ∧ key e = some t

section
variable {key : Entry → Option Tick} {now : Tick} {e : Entry} {es : List Entry} {i j : Nat} {t u : Tick}

@[simp] theorem tickAt_cons_zero : tickAt key (e :: es) 0 t ↔ key e = some t := by simp [tickAt]

@[simp] theorem tickAt_cons_succ : tickAt key (e :: es) (i + 1) t ↔ tickAt key es i t := Iff.rfl

theorem no_tickAt_iff : (∀ i t, ¬ tickAt key es i t) ↔ ∀ e ∈ es, key e = none := by
  constructor
  · intro h e he
    obtain ⟨i, hi⟩ := List.mem_iff_getElem?.mp he
    exact Option.eq_none_iff_forall_ne_some.mpr fun t ht => h i t ⟨e, hi, ht⟩
  · rintro h i t ⟨e, hi, ht⟩
    rw [h e (List.mem_of_getElem? hi)] at ht
    cases ht

/-- An entry put in front whose elapsed time no other exceeds comes first: equals go to the lowest number. -/
theorem OldestAt.head (ht : key e = some t) (h : ∀ j u, tickAt key es j u → elapsed now u ≤ elapsed now t) :
    OldestAt now (tickAt key (e :: es)) 0 t := by
  refine ⟨tickAt_cons_zero.mpr ht, fun j u hu => ⟨?_, fun hj => absurd hj j.not_lt_zero⟩⟩
  cases j with
  | zero =>
    rw [tickAt_cons_zero, ht] at hu
    cases hu
    exact le_rfl
  | succ j => exact h j u (tickAt_cons_succ.mp hu)

/-- An entry put in front that carries no tick, or one of a smaller elapsed time, leaves the one picked the first. -/
theorem OldestAt.tail (h : OldestAt now (tickAt key es) i t) (he : ∀ u, key e = some u → elapsed now u < elapsed now t) :
    OldestAt now (tickAt key (e :: es)) (i + 1) t := by
  obtain ⟨ht, h⟩ := h
  refine ⟨tickAt_cons_succ.mpr ht, fun j u hu => ?_⟩
  cases j with
  | zero =>
    have hlt := he u (tickAt_cons_zero.mp hu)
    exact ⟨hlt.le, fun _ => hlt⟩
  | succ j =>
    obtain ⟨hle, hlt⟩ := h j u (tickAt_cons_succ.mp hu)
    exact ⟨hle, fun hj => hlt (Nat.lt_of_succ_lt_succ hj)⟩

/-- None is picked exactly when none carries the tick. -/
theorem pickOldest_eq_none_iff : ∀ {es : List Entry} {n : Nat}, pickOldest key now n es = none ↔ ∀ e ∈ es, key e = none
  | [], n => by simp [pickOldest]
  | e :: es, n => by
    rw [List.forall_mem_cons, ← pickOldest_eq_none_iff (n := n + 1), pickOldest]
    cases key e <;> cases pickOldest key now (n + 1) es <;> simp
    split <;> simp

/-- The entry picked comes first in the order of R8, and its elapsed time comes with it; `n` numbers the first entry. -/
theorem pickOldest_eq_some : ∀ {es : List Entry} {n m x : Nat}, pickOldest key now n es = some (m, x) →
    ∃ i t, m = n + i ∧ x = elapsed now t ∧ OldestAt now (tickAt key es) i t
  | [], n, m, x, h => by cases h
  | e :: es, n, m, x, h => by
    rw [pickOldest] at h
    split at h
    case h_1 he =>
      obtain ⟨i, t, rfl, rfl, hold⟩ := pickOldest_eq_some h
      exact ⟨i + 1, t, by omega, rfl, hold.tail fun u hu => by rw [he] at hu; cases hu⟩
    case h_2 t he hrest =>
      cases h
      have hnone := no_tickAt_iff.mpr (pickOldest_eq_none_iff.mp hrest)
      exact ⟨0, t, rfl, rfl, .head he fun j u hu => absurd hu (hnone j u)⟩
    case h_3 t j d he hrest =>
      obtain ⟨i, u, rfl, rfl, hold⟩ := pickOldest_eq_some hrest
      split at h
      case isTrue hle =>
        cases h
        exact ⟨0, t, rfl, rfl, .head he fun k v hv => (hold.2 k v hv).1.trans hle⟩
      case isFalse hlt =>
        cases h
        refine ⟨i + 1, u, by omega, rfl, hold.tail fun v hv => ?_⟩
        rw [he] at hv
        cases hv
        exact Nat.lt_of_not_le hlt

/-- The number picked is the one that comes first in the order of R8. -/
theorem pickOldest_fst_eq_some_iff :
    (pickOldest key now 0 es).map (·.1) = some i ↔ ∃ t, OldestAt now (tickAt key es) i t := by
  constructor
  · intro h
    obtain ⟨⟨m, x⟩, hp, rfl⟩ := Option.map_eq_some_iff.mp h
    obtain ⟨i, t, rfl, -, hold⟩ := pickOldest_eq_some hp
    rw [Nat.zero_add]
    exact ⟨t, hold⟩
  · rintro ⟨t, hold⟩
    cases hp : pickOldest key now 0 es with
    | none => exact absurd hold.1 (no_tickAt_iff.mpr (pickOldest_eq_none_iff.mp hp) i t)
    | some p =>
      obtain ⟨j, u, hj, -, hold'⟩ := pickOldest_eq_some (m := p.1) (x := p.2) hp
      rw [Option.map_some, hj, Nat.zero_add, hold'.unique hold]

theorem pickOldest_fst_eq_none_iff :
    (pickOldest key now 0 es).map (·.1) = none ↔ ∀ i t, ¬ tickAt key es i t := by
  rw [Option.map_eq_none_iff, pickOldest_eq_none_iff, no_tickAt_iff]

end

/-! ### The two ticks the table picks by -/

theorem cleanUse_eq_some {e : Entry} {t : Tick} : cleanUse e = some t ↔ ∃ d, e = .clean d ∧ d.lastUse = t := by
  cases e <;> simp [cleanUse]

theorem dirtyFirstWrite_eq_some {e : Entry} {t : Tick} :
    dirtyFirstWrite e = some t ↔ ∃ d x, e = .opened d x ∧ hasDirty d = true ∧ d.firstWrite = t := by
  cases e <;> simp [dirtyFirstWrite]

/-- A FREE entry carries no tick, so the entries past the table, FREE by `Staging.entry`, take no part. -/
theorem tickAt_entries {key : Entry → Option Tick} (hfree : key .free = none) (g : Staging) (i : Nat) (t : Tick) :
    tickAt key g.entries i t ↔ key (g.entry i) = some t := by
  cases h : g.entries[i]? <;> simp [tickAt, Staging.entry, h, hfree]

theorem tickAt_cleanUse (g : Staging) :
    tickAt cleanUse g.entries = fun i t => ∃ d, g.entry i = .clean d ∧ d.lastUse = t :=
  funext₂ fun i t => propext ((tickAt_entries rfl g i t).trans cleanUse_eq_some)

theorem tickAt_dirtyFirstWrite (g : Staging) : tickAt dirtyFirstWrite g.entries =
    fun i t => ∃ d x, g.entry i = .opened d x ∧ hasDirty d = true ∧ d.firstWrite = t :=
  funext₂ fun i t => propext ((tickAt_entries rfl g i t).trans dirtyFirstWrite_eq_some)

/-! ### The place of an allocation (R18, R19) -/

theorem isFree_iff {e : Entry} : e.isFree = true ↔ e = .free := by
  cases e <;> simp [Entry.isFree]

/-- The lowest-numbered FREE entry is the place (R18). -/
theorem Staging.place_of_free {g : Staging} {now : Tick} {i : Nat} (hi : g.entries[i]? = some .free)
    (hlow : ∀ j, j < i → g.entries[j]? ≠ some .free) : g.place now = some i := by
  obtain ⟨hlt, he⟩ := List.getElem?_eq_some_iff.mp hi
  have hfind : g.entries.findIdx? Entry.isFree = some i := by
    refine List.findIdx?_eq_some_iff_getElem.mpr ⟨hlt, isFree_iff.mpr he, fun j hj hfree => hlow j hj ?_⟩
    rw [List.getElem?_eq_getElem (hj.trans hlt), isFree_iff.mp hfree]
  rw [Staging.place, hfind]

/-- Without a FREE entry the place is picked among the CLEAN ones (R19). -/
theorem Staging.place_of_full {g : Staging} (now : Tick) (h : ∀ e ∈ g.entries, e ≠ .free) :
    g.place now = (pickOldest cleanUse now 0 g.entries).map (·.1) := by
  have hfind : g.entries.findIdx? Entry.isFree = none :=
    List.findIdx?_eq_none_iff.mpr fun e he => Bool.eq_false_iff.mpr fun hf => h e he (isFree_iff.mp hf)
  rw [Staging.place, hfind]

/-- Settles O46, from the order of R8 that `pickOldest` follows. -/
theorem theOldestEntryIsPicked : Obligations.TheOldestEntryIsPicked := by
  refine ⟨fun g now => ⟨fun i => Staging.place_of_free, fun hfull => ?clean, ?dirty, ?noDirty⟩, fun key now es => ⟨?picked, ?none⟩⟩
  case clean =>
    rw [Staging.place_of_full now hfull, ← tickAt_cleanUse g]
    exact ⟨fun i => pickOldest_fst_eq_some_iff, pickOldest_fst_eq_none_iff⟩
  case dirty =>
    intro i
    rw [← tickAt_dirtyFirstWrite g]
    exact pickOldest_fst_eq_some_iff
  case noDirty =>
    exact pickOldest_fst_eq_none_iff.trans (by rw [tickAt_dirtyFirstWrite g])
  case picked =>
    intro i x h
    obtain ⟨k, t, rfl, rfl, ⟨e, hk, ht⟩, hfirst⟩ := pickOldest_eq_some h
    rw [Nat.zero_add]
    exact ⟨e, t, hk, ht, rfl, fun j e' t' hj ht' => hfirst j t' ⟨e', hj, ht'⟩⟩
  case none => exact pickOldest_eq_none_iff

end Sys2Proof.Machine
end

section
/-! SUPPORT. A control record presented with a level of GUARD (R118, R119), and the two commands that set the default decision and the lock state (R116, R119). -/

namespace Sys2Proof.Machine

/-- A command that leaves all but the rule unit as it was runs as one event: the rule unit takes the value given, the
reply is placed and the record answered OK. A refusal is the case of the rule unit as it stands. -/
theorem guardedRecord_event {s u : State} {line : Addr} {g : Bool} {code : Byte} {args : List Byte}
    (h : s.ReadyFor line) (hu : u = s.clearOut.setGuard g) (x : RuleUnit) (r : Reply)
    (hx : execCode (roomAt (lineOf line)) code (padTo 53 args) (u.executing line code args) =
      ((u.executing line code args).withRule x, some r)) :
    event (fun s => (s.setGuard g).presentRecord line code args) s = (u.withRule x).replied line code r := by
  subst hu
  exact record_quiet (h.clearOut.setGuard g) code args hx rfl ⟨rfl, rfl, rfl, rfl, rfl, rfl, rfl, rfl⟩

/-- The lock check (R118). -/
theorem RuleUnit.forbidsChange_iff (u : RuleUnit) :
    u.forbidsChange = true ↔ u.lock = .frozen ∨ (u.lock = .guarded ∧ u.guard = false) := by
  cases h : u.lock <;> simp [forbidsChange, h]

theorem byte_eq_of_le_two {b : Byte} (h : ¬ 2 < b.toNat) : b = 0x00 ∨ b = 0x01 ∨ b = 0x02 := by
  bv_omega

theorem byte_ne_of_two_lt {b : Byte} (h : 2 < b.toNat) : b ≠ 0x00 ∧ b ≠ 0x01 ∧ b ≠ 0x02 := by
  refine ⟨?_, ?_, ?_⟩ <;> (rintro rfl; revert h; decide)

/-! ### SET-DEFAULT (R116) -/

/-- The target a target code names; NONE for a byte that is no code. -/
def targetOf (b : Byte) : Option QueueName := if b = 0x01 then some .a else if b = 0x02 then some .b else none

theorem targetArg_eq (b : Byte) : targetArg b = if 2 < b.toNat then none else some (targetOf b) := by
  split
  case isTrue h =>
    obtain ⟨h0, h1, h2⟩ := byte_ne_of_two_lt h
    rw [targetArg, if_neg h0, if_neg h1, if_neg h2]
  case isFalse h => obtain rfl | rfl | rfl := byte_eq_of_le_two h <;> rfl

theorem targetCode_targetOf {b : Byte} (h : ¬ 2 < b.toNat) : targetCode (targetOf b) = b := by
  obtain rfl | rfl | rfl := byte_eq_of_le_two h <;> rfl

theorem cmdSetDefault_locked {s : State} (h : s.rule.forbidsChange = true) (action capture : Byte) :
    cmdSetDefault action capture s = refuse s .refusedLocked [] := by
  rw [cmdSetDefault, if_pos h]

theorem cmdSetDefault_outOfRange {s : State} {action capture : Byte} (hl : ¬ s.rule.forbidsChange = true)
    (hr : 1 < action.toNat ∨ 2 < capture.toNat) : cmdSetDefault action capture s = refuse s .refusedRange [] := by
  rw [cmdSetDefault, if_neg hl, targetArg_eq]
  by_cases hc : 2 < capture.toNat
  case pos =>
    rw [if_pos hc]
    cases actionArg action with
    | none => rfl
    | some a => cases a <;> rfl
  case neg =>
    have ha : action ≠ 0x00 ∧ action ≠ 0x01 := by bv_omega
    rw [if_neg hc, actionArg, if_neg ha.1, if_neg ha.2]
    by_cases h2 : action = 0x02
    case pos => rw [if_pos h2]
    case neg => rw [if_neg h2]

theorem cmdSetDefault_accepted {s : State} {action capture : Byte} (hl : ¬ s.rule.forbidsChange = true)
    (hr : ¬ (1 < action.toNat ∨ 2 < capture.toNat)) :
    cmdSetDefault action capture s = accept
      (s.withRule { s.rule with defaultDeny := decide (action = 0x01), defaultCapture := targetOf capture })
      [action, capture] := by
  obtain ⟨ha, hc⟩ := not_or.mp hr
  have hcode := targetCode_targetOf hc
  rw [cmdSetDefault, if_neg hl, targetArg_eq, if_neg hc]
  have hbit : action = 0x00 ∨ action = 0x01 := by bv_omega
  obtain rfl | rfl := hbit <;> exact congrArg (fun c => accept _ [_, c]) hcode

/-- Settles O19: each case of the command leaves all but the rule unit as it was, so its record runs as one event. -/
theorem setDefaultReplacesTheDefault : Obligations.SetDefaultReplacesTheDefault := by
  intro s line action capture g h u target
  have hlock : u.rule.forbidsChange = true ↔ s.rule.lock = .frozen ∨ (s.rule.lock = .guarded ∧ g = false) :=
    u.rule.forbidsChange_iff
  have hrun (x : RuleUnit) (r : Reply) (hx : cmdSetDefault action capture (u.executing line 0x22 [action, capture]) =
      ((u.executing line 0x22 [action, capture]).withRule x, some r)) :
      exec (.setDefault line action capture g) s = .next ((u.withRule x).replied line 0x22 r) :=
    congrArg Host.Outcome.next (guardedRecord_event (u := u) h rfl x r ((execCode_setDefault ..).trans hx))
  split_ifs with hl hr
  case pos => exact hrun u.rule _ (cmdSetDefault_locked (s := u.executing ..) (hlock.mpr hl) action capture)
  case pos => exact hrun u.rule _ (cmdSetDefault_outOfRange (mt hlock.mp hl) hr)
  case neg => exact hrun _ _ (cmdSetDefault_accepted (mt hlock.mp hl) hr)

/-! ### SET-LOCK (R119) -/

theorem cmdSetLock_outOfRange {l : Byte} (s : State) (h : 2 < l.toNat) :
    cmdSetLock l s = refuse s .refusedRange [s.rule.lock.code] := by
  obtain ⟨h0, h1, h2⟩ := byte_ne_of_two_lt h
  rw [cmdSetLock, lockArg, if_neg h0, if_neg h1, if_neg h2]

theorem cmdSetLock_code (l : LockState) (s : State) :
    cmdSetLock l.code s = if lockAllowed s.rule.guard s.rule.lock l = true then
      accept (s.withRule { s.rule with lock := l }) [l.code] else refuse s .refusedLocked [s.rule.lock.code] := by
  rw [cmdSetLock, lockArg_code]

theorem lockState_code_of_le_two {b : Byte} (h : ¬ 2 < b.toNat) : ∃ l : LockState, b = l.code := by
  obtain rfl | rfl | rfl := byte_eq_of_le_two h
  exacts [⟨.unlocked, rfl⟩, ⟨.guarded, rfl⟩, ⟨.frozen, rfl⟩]

/-- Settles O21, state by state of the table. -/
theorem setLockFollowsItsTable : Obligations.SetLockFollowsItsTable := by
  intro s line b g h u become refused
  have hrun (x : RuleUnit) (r : Reply) (hx : cmdSetLock b (u.executing line 0x24 [b]) =
      ((u.executing line 0x24 [b]).withRule x, some r)) :
      exec (.setLock line b g) s = .next ((u.withRule x).replied line 0x24 r) :=
    congrArg Host.Outcome.next (guardedRecord_event (u := u) h rfl x r ((execCode_setLock ..).trans hx))
  split
  case isTrue hb => exact hrun u.rule _ (cmdSetLock_outOfRange _ hb)
  case isFalse hb =>
    obtain ⟨l, rfl⟩ := lockState_code_of_le_two hb
    have hmoves (ha : lockAllowed g s.rule.lock l = true) : exec (.setLock line l.code g) s = .next (become l) :=
      hrun _ _ ((cmdSetLock_code l _).trans (if_pos ha))
    have hrefused (ha : ¬ lockAllowed g s.rule.lock l = true) : exec (.setLock line l.code g) s = .next refused :=
      hrun u.rule _ ((cmdSetLock_code l _).trans (if_neg ha))
    cases hlock : s.rule.lock <;> rw [hlock] at hmoves hrefused
    case unlocked => cases l <;> exact hmoves rfl
    case guarded =>
      cases l
      case unlocked =>
        cases g
        case false => exact hrefused (by decide)
        case true => exact hmoves rfl
      case guarded => exact hmoves rfl
      case frozen => exact hmoves rfl
    case frozen => exact hrefused nofun

end Sys2Proof.Machine
end

section
/-! SUPPORT. The decision of a request (R109 to R113) and what an urgent decision leaves behind (R112). -/

namespace Sys2Proof.Machine

/-! ### Which rule decides (R109 to R111) -/

theorem lineMask_getLsbD {b : Nat} : (0xFFFFC0 : Addr).getLsbD b = decide (6 ≤ b ∧ b < 24) := by
  by_cases h : b < 24
  case pos => revert b; decide
  case neg => rw [BitVec.getLsbD_of_ge _ _ (Nat.le_of_not_lt h), decide_eq_false (fun ⟨_, hb⟩ => h hb)]

/-- Two addresses agree under a mask of line bits when they agree in each bit from 6 on that the mask names. -/
theorem xor_and_lineMask_eq_zero_iff (x y m : Addr) : (x ^^^ y) &&& (m &&& 0xFFFFC0) = 0#24 ↔
    ∀ b, 6 ≤ b → b < 24 → m.getLsbD b = true → x.getLsbD b = y.getLsbD b := by
  constructor
  · intro h b hlow hhigh hm
    have hbit := congrArg (BitVec.getLsbD · b) h
    simpa only [BitVec.getLsbD_and, BitVec.getLsbD_xor, lineMask_getLsbD, BitVec.getLsbD_zero, hm, hlow, hhigh, and_self,
      decide_true, Bool.and_true, bne_eq_false_iff_eq] using hbit
  · intro h
    refine BitVec.eq_of_getLsbD_eq fun b hb => ?_
    rw [BitVec.getLsbD_and, BitVec.getLsbD_xor, BitVec.getLsbD_and, lineMask_getLsbD, BitVec.getLsbD_zero]
    cases hm : m.getLsbD b
    case false => rw [Bool.false_and, Bool.and_false]
    case true =>
      by_cases hlow : 6 ≤ b
      case pos => rw [h b hlow hb hm, Bool.xor_self, Bool.false_and]
      case neg => rw [decide_eq_false (fun ⟨h6, _⟩ => hlow h6), Bool.and_false, Bool.and_false]

/-- Which lines a rule matches, by its kind (R109). -/
def Rule.Matches (r : Rule) (line : Addr) : Prop :=
  match r.kind with
  | .range => r.addr1.toNat ≤ line.toNat ∧ line.toNat ≤ r.addr2.toNat
  | .pair => line = r.addr1 ∨ line = r.addr2
  | .mask => ∀ b, 6 ≤ b → b < 24 → r.addr2.getLsbD b = true → line.getLsbD b = r.addr1.getLsbD b

theorem Rule.matchesLine_iff (r : Rule) (line : Addr) : r.matchesLine line = true ↔ r.Matches line := by
  unfold matchesLine Matches
  cases r.kind
  case range => simp
  case pair => simp
  case mask => simp [← xor_and_lineMask_eq_zero_iff]

theorem AppliesTo.covers_iff (a : AppliesTo) (access : Access) : a.covers access = true ↔
    a = .both ∨ (a = .reads ∧ access = .read) ∨ (a = .writes ∧ access = .write) := by
  cases a <;> cases access <;> decide

theorem CaptureUnit.slotNew_eq_false_iff (c : CaptureUnit) (n : Nat) :
    c.slotNew n = false ↔ ∀ x, c.slots[n]? = some x → x.isNew = false := by
  unfold slotNew slot
  cases c.slots[n]? <;> simp

/-- Whether a rule decides a request, spelled out (R110, R111). -/
theorem Rule.decides_iff (r : Rule) (c : CaptureUnit) (access : Access) (line : Addr) :
    r.decides c access line = true ↔ r.enabled = true ∧ r.Matches line ∧
      (r.applies = .both ∨ (r.applies = .reads ∧ access = .read) ∨ (r.applies = .writes ∧ access = .write)) ∧
      (r.action = .latch → ∀ x, c.slots[r.slot]? = some x → x.isNew = false) := by
  rw [← matchesLine_iff, ← AppliesTo.covers_iff, ← CaptureUnit.slotNew_eq_false_iff]
  simp only [decides, Bool.and_eq_true, Bool.or_eq_true, decide_eq_true_eq, Bool.not_eq_true', and_assoc, ne_eq,
    Decidable.imp_iff_not_or]

/-! ### The first that decides (R110, R113) -/

section
variable {c : CaptureUnit} {access : Access} {line : Addr}

theorem firstDeciding_eq_some {r : Rule} : ∀ {rules : List Rule} {i n : Nat}, rules[i]? = some r →
    r.decides c access line = true → (∀ j q, j < i → rules[j]? = some q → ¬ q.decides c access line = true) →
    firstDeciding c access line n rules = some (ruleDecision (n + i) r)
  | [], i, n, hr, _, _ => by cases hr
  | q :: rules, 0, n, hr, hd, _ => by
    cases hr
    rw [firstDeciding, if_pos hd, Nat.add_zero]
  | q :: rules, i + 1, n, hr, hd, hfirst => by
    have hrest := firstDeciding_eq_some (n := n + 1) (List.getElem?_cons_succ.symm.trans hr) hd
      fun j p hj hp => hfirst (j + 1) p (Nat.succ_lt_succ hj) hp
    rw [firstDeciding, if_neg (hfirst 0 q i.succ_pos rfl), hrest, Nat.add_right_comm, Nat.add_assoc]

theorem firstDeciding_eq_none : ∀ {rules : List Rule} {n : Nat}, (∀ r ∈ rules, ¬ r.decides c access line = true) →
    firstDeciding c access line n rules = none
  | [], _, _ => rfl
  | r :: rules, n, h => by
    obtain ⟨hr, hrest⟩ := List.forall_mem_cons.mp h
    rw [firstDeciding, if_neg hr, firstDeciding_eq_none hrest]

theorem decisionFor_of_first {s : State} {i : Nat} {r : Rule} (hr : s.rule.rules[i]? = some r)
    (hd : r.decides s.capture access line = true)
    (hfirst : ∀ j q, j < i → s.rule.rules[j]? = some q → ¬ q.decides s.capture access line = true) :
    s.decisionFor access line = ruleDecision i r := by
  rw [State.decisionFor, firstDeciding_eq_some hr hd hfirst, Nat.zero_add, Option.getD_some]

theorem decisionFor_of_none {s : State} (h : ∀ r ∈ s.rule.rules, ¬ r.decides s.capture access line = true) :
    s.decisionFor access line = s.rule.defaultDecision := by
  rw [State.decisionFor, firstDeciding_eq_none h, Option.getD_none]

end

/-! ### What an urgent decision causes (R112) -/

theorem noteUrgent_of_urgent (s : State) {d : Decision} (h : d.urgent = true) :
    s.noteUrgent d = (s.withRule { s.rule with lastUrgent := some d.rule.number }).raise .urgentAccess := if_pos h

theorem noteUrgent_of_not_urgent (s : State) {d : Decision} (h : d.urgent = false) : s.noteUrgent d = s :=
  if_neg (by rw [h]; exact Bool.false_ne_true)

/-- The mark of an urgent decision by rule `i`: it is the last urgent rule, and URGENT_ACCESS is raised. -/
def State.UrgentNoted (i : Nat) (s : State) : Prop := s.rule.lastUrgent = some i ∧ s.flagSet .urgentAccess = true

theorem flagSet_raise (s : State) (e x : Event) :
    (s.raise x).flagSet e = (s.flagSet e || (eventMask x).getLsbD (eventBit e)) := BitVec.getLsbD_or

theorem urgentAccess_raised (s : State) : (s.raise .urgentAccess).flagSet .urgentAccess = true := by
  rw [flagSet_raise, Bool.or_eq_true]
  exact .inr rfl

namespace State.UrgentNoted
variable {i : Nat} {s t : State}

theorem of_decision (s : State) {d : Decision} (hr : d.rule = .rule i) (hu : d.urgent = true) :
    (s.noteUrgent d).UrgentNoted i := by
  rw [noteUrgent_of_urgent s hu]
  exact ⟨by rw [raise_rule, withRule_rule, hr]; rfl, urgentAccess_raised _⟩

/-- The mark lies in the rule unit and the event flags alone. -/
theorem congr (h : s.UrgentNoted i) (hr : t.rule = s.rule) (he : t.events = s.events) : t.UrgentNoted i := by
  obtain ⟨hlast, hflag⟩ := h
  exact ⟨by rw [hr, hlast], by rw [flagSet, he]; exact hflag⟩

theorem raise (h : s.UrgentNoted i) (e : Event) : (s.raise e).UrgentNoted i := by
  obtain ⟨hlast, hflag⟩ := h
  exact ⟨hlast, by rw [flagSet_raise, hflag, Bool.true_or]⟩

theorem raiseAll (h : s.UrgentNoted i) (l : List Event) : (s.raiseAll l).UrgentNoted i := by
  induction l generalizing s with
  | nil => exact h
  | cons e l ih => exact ih (h.raise e)

theorem putRecord (h : s.UrgentNoted i) (n : QueueName) (u : Bool) (r : CaptureRecord) :
    (s.putRecord n u r).UrgentNoted i := by
  refine raiseAll ?_ _
  exact h.congr rfl rfl

theorem captureWrite (h : s.UrgentNoted i) (w : WriteInProgress) (u : Bool) (o : CaptureOutcome) (b : List Byte) :
    (s.captureWrite w u o b).UrgentNoted i := by
  unfold State.captureWrite
  split
  · exact h
  · split
    · exact h
    · exact h.putRecord ..

theorem latchWrite (h : s.UrgentNoted i) (w : WriteInProgress) (b : List Byte) : (s.latchWrite w b).UrgentNoted i := by
  unfold State.latchWrite
  split
  · exact raise (h.congr rfl rfl) _
  · exact h

theorem recordRefusal (h : s.UrgentNoted i) (x : RefusalReason) (a : Access) (l : Addr) (d : Option Decision) :
    (s.recordRefusal x a l d).UrgentNoted i := raise (h.congr rfl rfl) _

theorem answerWrite (h : s.UrgentNoted i) (w : WriteInProgress) (work : Image) : (s.answerWrite w work).UrgentNoted i := by
  have hanswered : ((s.setWrite none).giveAnswer (writeAnswer w.req (.ok []))).UrgentNoted i := h.congr rfl rfl
  have hcopied (data : List Byte) := (hanswered.captureWrite w true .absorbed data).latchWrite w data
  exact (hcopied (imgSpan work (sectorOffset w.req.line w.req.offset) w.req.bytes.length)).congr
    (by simp [State.answerWrite]) (by simp [State.answerWrite])

theorem refuseWrite (h : s.UrgentNoted i) (w : WriteInProgress) (x : RefusalReason) : (s.refuseWrite w x).UrgentNoted i := by
  have hreleased : (((s.setWrite none).giveAnswer (writeAnswer w.req (.err x))).releaseFor w.decision).UrgentNoted i :=
    h.congr (by simp) (by simp)
  exact (hreleased.captureWrite ..).recordRefusal ..

theorem landWrite (h : s.UrgentNoted i) (w : WriteInProgress) (n : Nat) (e : Entry) : (s.landWrite w n e).UrgentNoted i :=
  answerWrite (h.congr (by simp) (by simp)) ..

theorem stageWrite (h : s.UrgentNoted i) (w : WriteInProgress) : (s.stageWrite w).UrgentNoted i := by
  obtain ⟨x, hx⟩ := Stages.total s w
  rw [hx.stageWrite_eq]
  cases hx with
  | merge n e => exact h.landWrite ..
  | committing => exact h.congr rfl rfl
  | faulted => exact h.refuseWrite ..
  | allocate n =>
    refine landWrite ?_ ..
    exact h.congr rfl rfl
  | pressure n => exact h.congr rfl rfl
  | noEntry => exact h.congr rfl rfl

end State.UrgentNoted

/-- An urgent decision of a write is noted whatever the write's fate from the fence stage on (R97, R112). -/
theorem fenceStage_notes {s : State} {w : WriteInProgress} {i : Nat} (hr : (s.writeDecision w).rule = .rule i)
    (hu : (s.writeDecision w).urgent = true) : (s.fenceStage w).UrgentNoted i := by
  have hnoted : (s.decided w).UrgentNoted i := .of_decision s hr hu
  obtain ⟨x, hx⟩ := Decides.total s w
  rw [hx.fenceStage_eq]
  cases hx with
  | fence => exact hnoted.refuseWrite ..
  | denied => exact hnoted.refuseWrite ..
  | media => exact hnoted.refuseWrite ..
  | noSpace q => exact hnoted.congr rfl rfl
  | strict q _ _ _ _ _ hstage =>
    rw [← hstage.stageWrite_eq]
    refine State.UrgentNoted.stageWrite ?_ _
    exact hnoted.congr rfl rfl
  | plain _ _ _ hstage =>
    rw [← hstage.stageWrite_eq]
    exact hnoted.stageWrite _

/-- An urgent decision of a read is noted whatever the read's fate (R87, R112). -/
theorem decideRead_notes {s : State} {tag : Nat} {req : ReadReq} {i : Nat} (hr : (s.decisionFor .read req.line).rule = .rule i)
    (hu : (s.decisionFor .read req.line).urgent = true) : (s.decideRead tag req).UrgentNoted i := by
  have hnoted := State.UrgentNoted.of_decision s hr hu
  simp only [State.decideRead]
  split
  · exact hnoted.congr (by simp) (by simp)
  · exact hnoted.congr (by simp) (by simp)

/-! ### A request presented to a part at rest (R84, R85, R94) -/

theorem clearOut_atRest {s : State} (h : s.atRest) : s.clearOut.atRest := (atRest_iff _).mpr ((atRest_iff s).mp h)

theorem setGuard_atRest {s : State} (h : s.atRest) (g : Bool) : (s.setGuard g).atRest :=
  (atRest_iff _).mpr ((atRest_iff s).mp h)

/-- Requests that wait at the port make nothing due in a part at rest but their acceptance, the writes first. -/
theorem settleOnce_waiting {s t : State} (h : s.atRest) {reads : List ReadReq} {writes : List WriteReq}
    (ht : t = s.withPort { s.port with waitReads := reads, waitWrites := writes }) :
    settleOnce t = if t.canAcceptWrite then some t.acceptNextWrite
      else if t.canAcceptRead then some t.acceptNextRead else none := by
  obtain ⟨hreset, hrelease, hhazard, hspoiled, hgrant, hanswer, hdrain, hsafe, hreply, -, -⟩ := (atRest_iff s).mp h
  have hreset' : t.softResetDue = false := ht ▸ hreset
  have hrelease' : t.canReleaseWrite = false := ht ▸ hrelease
  have hhazard' : t.canReleaseHazard = false := ht ▸ hhazard
  have hspoiled' : t.sleepSpoiled = false := ht ▸ hspoiled
  have hgrant' : t.canGrant = false := ht ▸ hgrant
  have hanswer' : t.canAnswer = false := ht ▸ hanswer
  have hdrain' : t.drainDue = false := ht ▸ hdrain
  have hsafe' : t.safeDue = false := ht ▸ hsafe
  have hreply' : t.canPlaceReply = false := ht ▸ hreply
  simp only [settleOnce, hreset', hrelease', hhazard', hspoiled', hgrant', hanswer', hdrain', hsafe', hreply',
    Bool.false_eq_true, if_false]

/-- At rest an open read lane with room accepts a read presented as the event's next effect. -/
theorem read_presented {s : State} (h : s.atRest) (hlanes : s.port.lanesOpen = true) (hroom : s.port.reads.length < 4)
    (a : Addr) (offset length : Nat) :
    settleOnce (s.presentRead a offset length) =
      some (s.acceptRead { line := lineOf a, offset := offset, length := length }) := by
  obtain ⟨-, -, -, -, -, -, -, -, -, hread, hwrite⟩ := (atRest_iff s).mp h
  have hwait : s.port.waitReads = [] := by
    simpa [State.canAcceptRead, hlanes, Config.readLaneSize, hroom] using hread
  have hdue : (s.presentRead a offset length).canAcceptRead = true := by
    simp [State.canAcceptRead, State.presentRead, hlanes, Config.readLaneSize, hroom]
  have hnot : ¬ (s.presentRead a offset length).canAcceptWrite = true := fun hx => Bool.false_ne_true (hwrite.symm.trans hx)
  have hback (l : List ReadReq) : (s.withPort { s.port with waitReads := l }).withPort { s.port with waitReads := [] } = s := by
    rw [← hwait]; rfl
  rw [settleOnce_waiting (t := s.presentRead a offset length) h rfl, if_neg hnot, if_pos hdue, State.presentRead, hwait]
  exact congrArg some (congrArg (State.acceptRead · _) (hback _))

/-- At rest an open and free write lane accepts a write presented as the event's next effect. -/
theorem write_presented {s : State} (h : s.atRest) (hlanes : s.port.lanesOpen = true) (hfree : s.port.write = none)
    (req : WriteReq) : settleOnce (s.presentWrite req) = some (s.acceptWrite { req with line := lineOf req.line }) := by
  obtain ⟨-, -, -, -, -, -, -, -, -, -, hwrite⟩ := (atRest_iff s).mp h
  have hwait : s.port.waitWrites = [] := by simpa [State.canAcceptWrite, hlanes, hfree] using hwrite
  have hdue : (s.presentWrite req).canAcceptWrite = true := by
    simp [State.canAcceptWrite, State.presentWrite, hlanes, hfree]
  have hback (l : List WriteReq) : (s.withPort { s.port with waitWrites := l }).withPort { s.port with waitWrites := [] } = s := by
    rw [← hwait]; rfl
  rw [settleOnce_waiting (t := s.presentWrite req) h rfl, if_pos hdue, State.presentWrite, hwait]
  exact congrArg some (congrArg (State.acceptWrite · _) (hback _))

/-- A read that passes the span and window check outside UNCONFIGURED is decided (R87). -/
theorem acceptRead_decided {s : State} {req : ReadReq} (hspan : req.offset + req.length ≤ 64) (hpower : s.power.st ≠ .unconfigured)
    (hwindow : s.pastWindow req.line req.offset req.length = false) :
    s.acceptRead req = s.decideRead (freshTag s.port.reads) req := by
  have hcross : crossesLine req.offset req.length = false := decide_eq_false (Nat.not_lt.mpr hspan)
  simp only [State.acceptRead, hcross, hwindow, if_neg hpower, Bool.false_eq_true, if_false]

/-- A write that passes the span and window check and is no keyed line goes on to the power-state check (R95, R166). -/
theorem acceptWrite_ordinary {s : State} {req : WriteReq} (hspan : s.badSpan req = false)
    (hkey : s.control.enable = false ∨ keyedLine s.control.key req = none) :
    ∃ w : WriteInProgress, w.req = req ∧ s.acceptWrite req = (s.setWrite (some w)).powerStage w := by
  refine ⟨{ req := req, accepted := s.now, hold := some (tickAfter s.now s.time.timing.holdLimit.toNat), stage := .taking,
            decision := none }, rfl, (if_neg (fun hbad => Bool.false_ne_true (hspan.symm.trans hbad))).trans ?_⟩
  unfold State.recognise
  rcases hkey with hoff | hnone
  · exact if_neg (fun hon => Bool.false_ne_true (hoff.symm.trans hon))
  · rw [State.setWrite_control, hnone, ite_self]

/-- A read decided by an urgent rule is noted in the event of its request (R112). -/
theorem readRequest_notes {s : State} {a : Addr} {offset length i : Nat} (h : s.atRest) (hlanes : s.port.lanesOpen = true)
    (hroom : s.port.reads.length < 4) (hspan : offset + length ≤ 64) (hpower : s.power.st ≠ .unconfigured)
    (hwindow : s.pastWindow (lineOf a) offset length = false) (hr : (s.decisionFor .read (lineOf a)).rule = .rule i)
    (hu : (s.decisionFor .read (lineOf a)).urgent = true) :
    ∃ x : State, x.UrgentNoted i ∧ Reaches (.readRequest a offset length) s x := by
  refine ⟨_, ?_, reaches_of_step rfl (read_presented (clearOut_atRest h) hlanes hroom a offset length)⟩
  rw [acceptRead_decided (s := s.clearOut) (req := { line := lineOf a, offset := offset, length := length })
    hspan hpower hwindow]
  exact decideRead_notes (s := s.clearOut) hr hu

/-- A write decided by an urgent rule in RUN is noted in the event of its request (R112). -/
theorem writeRequest_notes {s : State} {a : Addr} {offset i : Nat} {bytes : List (Option Byte)} {g : Bool} (h : s.atRest)
    (hlanes : s.port.lanesOpen = true) (hfree : s.port.write = none)
    (hspan : s.badSpan { line := lineOf a, offset := offset, bytes := bytes } = false)
    (hkey : s.control.enable = false ∨ keyedLine s.control.key { line := lineOf a, offset := offset, bytes := bytes } = none)
    (hpower : s.power.st = .run) (hr : (s.decisionFor .write (lineOf a)).rule = .rule i)
    (hu : (s.decisionFor .write (lineOf a)).urgent = true) :
    ∃ x : State, x.UrgentNoted i ∧ Reaches (.writeRequest a offset bytes g) s x := by
  have hrest : (s.clearOut.setGuard g).atRest := setGuard_atRest (clearOut_atRest h) g
  refine ⟨_, ?_, reaches_of_step rfl (write_presented hrest hlanes hfree _)⟩
  obtain ⟨w, hw, haccept⟩ := acceptWrite_ordinary (s := s.clearOut.setGuard g) hspan hkey
  have hrun : ((s.clearOut.setGuard g).setWrite (some w)).power.st = .run := hpower
  rw [haccept, State.powerStage, hrun]
  exact fenceStage_notes (by rw [State.writeDecision, hw]; exact hr) (by rw [State.writeDecision, hw]; exact hu)

/-- Settles O41: the decision by the place of the first deciding rule in the list, and the mark of an urgent one, which
the later stages of the same event keep. -/
theorem theFirstDecidingRuleDecides : Obligations.TheFirstDecidingRuleDecides := by
  intro s access line decides
  have hdecides (r : Rule) : r.decides s.capture access line = true ↔ decides r := r.decides_iff s.capture access line
  refine ⟨fun i r hr hd hfirst => ?first, fun hnone => ?default, fun i d hr hu => ?urgent, fun d => noteUrgent_of_not_urgent s,
    ?requests⟩
  case first =>
    exact decisionFor_of_first hr ((hdecides r).mpr hd) fun j q hj hq => mt (hdecides q).mp (hfirst j q hj hq)
  case default =>
    exact decisionFor_of_none fun r hr => mt (hdecides r).mp (hnone r hr)
  case urgent =>
    rw [noteUrgent_of_urgent s hu, hr]
    rfl
  case requests =>
    rintro a rfl hrest hlanes noted urgent
    constructor
    · rintro offset length i hroom hspan hpower hwindow ⟨hr, hu⟩
      exact readRequest_notes hrest hlanes hroom hspan hpower hwindow hr hu
    · rintro offset bytes g i hfree hspan hkey hpower ⟨hr, hu⟩
      exact writeRequest_notes hrest hlanes hfree hspan hkey hpower hr hu

end Sys2Proof.Machine
end

section
/-! SUPPORT. A control record that alters the capture unit alone, and the two commands that set a queue's mode and watermark and acknowledge its records (R133, R135). -/

namespace Sys2Proof.Machine

/-- A command that leaves all but the capture unit as it was runs as one event: the capture unit takes the value given,
the reply is placed and the record answered OK. A refusal is the case of the capture unit as it stands. -/
theorem captureRecord_event {s : State} {line : Addr} {code : Byte} {args : List Byte} (h : s.ReadyFor line)
    (c : CaptureUnit) (r : Reply)
    (hx : execCode (roomAt (lineOf line)) code (padTo 53 args) (s.clearOut.executing line code args) =
      ((s.clearOut.executing line code args).withCapture c, some r)) :
    event (fun s => s.presentRecord line code args) s = (s.clearOut.withCapture c).replied line code r :=
  record_quiet h.clearOut code args hx rfl ⟨rfl, rfl, rfl, rfl, rfl, rfl, rfl, rfl⟩

theorem CaptureUnit.setQueue_queue_self (c : CaptureUnit) (n : QueueName) : c.setQueue n (c.queue n) = c := by
  cases n <;> rfl

theorem queueArg_eq_none {b : Byte} (h : b = 0 ∨ 2 < b.toNat) : queueArg b = none := by
  have hb : b ≠ 0x01 ∧ b ≠ 0x02 := by bv_omega
  rw [queueArg, if_neg hb.1, if_neg hb.2]

theorem modeArg_eq_none {b : Byte} (h : 2 < b.toNat) : modeArg b = none := by
  obtain ⟨h0, h1, h2⟩ := byte_ne_of_two_lt h
  rw [modeArg, if_neg h0, if_neg h1, if_neg h2]

/-! ### SET-QUEUE (R135) -/

theorem cmdSetQueue_code (n : QueueName) (m : QueueMode) (w : Byte) (s : State) :
    cmdSetQueue (targetCode (some n)) m.code w s =
      if 1 ≤ w.toNat ∧ w.toNat ≤ Config.queueCapacity n then
        accept (s.withCapture (s.capture.setQueue n { s.capture.queue n with mode := m, watermark := w.toNat }))
          ([targetCode (some n), m.code, w, byteOf (s.capture.queue n).records.length] ++ le4 (s.capture.queue n).next.toNat)
      else refuse s .refusedRange [] := by
  have hrange : (w = 0 ∨ Config.queueCapacity n < w.toNat) ↔ ¬ (1 ≤ w.toNat ∧ w.toNat ≤ Config.queueCapacity n) := by
    bv_omega
  simp only [cmdSetQueue, queueArg_code, modeArg_code, hrange, ite_not]

theorem cmdSetQueue_noCode {q m : Byte} (h : q = 0 ∨ 2 < q.toNat ∨ 2 < m.toNat) (w : Byte) (s : State) :
    cmdSetQueue q m w s = refuse s .refusedRange [] := by
  unfold cmdSetQueue
  obtain hq | hm := or_assoc.mpr h
  case inl => rw [queueArg_eq_none hq]
  case inr =>
    rw [modeArg_eq_none hm]
    cases queueArg q <;> rfl

/-- Settles O22: each case of the command leaves all but the capture unit as it was, so its record runs as one event. -/
theorem setQueueSetsModeAndWatermark : Obligations.SetQueueSetsModeAndWatermark := by
  intro s line w h
  have hrun {q m : Byte} (c : CaptureUnit) (r : Reply) (hx : cmdSetQueue q m w (s.clearOut.executing line 0x30 [q, m, w]) =
      ((s.clearOut.executing line 0x30 [q, m, w]).withCapture c, some r)) :
      exec (.setQueue line q m w) s = .next ((s.clearOut.withCapture c).replied line 0x30 r) :=
    congrArg Host.Outcome.next (captureRecord_event h c r ((execCode_setQueue ..).trans hx))
  constructor
  case left =>
    intro n m q
    split
    case isTrue hw => exact hrun _ _ ((cmdSetQueue_code ..).trans (if_pos hw))
    case isFalse hw => exact hrun s.capture _ ((cmdSetQueue_code ..).trans (if_neg hw))
  case right => exact fun q m hcode => hrun s.capture _ (cmdSetQueue_noCode hcode w _)

/-! ### ACK-CAPTURE (R133) -/

/-- The number of the head record; the next sequence number when the queue is empty (R133). -/
def CaptureQueue.headNumber (q : CaptureQueue) : BitVec 32 := ((q.records.head?).map (·.number)).getD q.next

/-- How far a number lies above the head's, modulo 2^32 (R133). -/
def CaptureQueue.distance (q : CaptureQueue) (x : BitVec 32) : Nat := (x - q.headNumber).toNat

theorem ackCount_eq (q : CaptureQueue) (x : BitVec 32) :
    ackCount q x = if q.distance x < q.records.length then some (q.distance x + 1)
      else if 2 ^ 31 ≤ q.distance x then some 0 else none := by
  unfold ackCount CaptureQueue.distance CaptureQueue.headNumber
  cases q.records <;> rfl

theorem CaptureQueue.remove_succ (q : CaptureQueue) (now : Tick) (stale : Half) (d : Nat) :
    q.remove now stale (d + 1) =
      { q with records := q.records.drop (d + 1),
               staleExpiry := if q.records.drop (d + 1) = [] ∨ stale = 0 then none else some (now + stale.setWidth 32) } := by
  simp only [remove, if_neg (Nat.succ_ne_zero d), startTimer, List.isEmpty_iff, ite_or]

/-- The command by the distance of the named number from the head's: records removed, none removed, or a refusal. -/
theorem cmdAckCapture_code (n : QueueName) (x : BitVec 32) (s : State) :
    cmdAckCapture (targetCode (some n)) x s =
      let q := s.capture.queue n
      let d := q.distance x
      let q' := q.remove s.now (staleLimit s.time.timing n) (d + 1)
      if d < q.records.length then
        accept (s.withCapture (s.capture.setQueue n q'))
          ([targetCode (some n), byteOf (d + 1), byteOf q'.records.length, 0x00] ++ le4 q'.next.toNat)
      else if 2 ^ 31 ≤ d then accept s ([targetCode (some n), 0x00, byteOf q.records.length, 0x00] ++ le4 q.next.toNat)
      else refuse s .refusedRange [] := by
  simp only [cmdAckCapture, queueArg_code, ackCount_eq]
  split_ifs with hnamed hpast
  case pos => rfl
  case pos => exact congrArg (fun c => accept (s.withCapture c) _) (s.capture.setQueue_queue_self n)
  case neg => rfl

theorem cmdAckCapture_noCode {q : Byte} (h : q = 0 ∨ 2 < q.toNat) (x : BitVec 32) (s : State) :
    cmdAckCapture q x s = refuse s .refusedRange [] := by
  rw [cmdAckCapture, queueArg_eq_none h]

/-- Settles O24, range by range of the distance of the named number from the head's. -/
theorem ackCaptureRemovesUpToTheNamedRecord : Obligations.AckCaptureRemovesUpToTheNamedRecord := by
  intro s line x h
  have hrun {q : Byte} (c : CaptureUnit) (r : Reply)
      (hx : cmdAckCapture q x (s.clearOut.executing line 0x32 (q :: le4 x.toNat)) =
        ((s.clearOut.executing line 0x32 (q :: le4 x.toNat)).withCapture c, some r)) :
      exec (.ackCapture line q x) s = .next ((s.clearOut.withCapture c).replied line 0x32 r) :=
    congrArg Host.Outcome.next (captureRecord_event h c r ((execCode_ackCapture ..).trans hx))
  constructor
  case left =>
    intro n q head d limit rest q'
    have hremoved : q.remove s.now limit (d + 1) = q' := q.remove_succ ..
    have hcode := cmdAckCapture_code n x (s.clearOut.executing line 0x32 (targetCode (some n) :: le4 x.toNat))
    split_ifs with hnamed hpast
    case pos =>
      rw [← hremoved]
      exact hrun _ _ (hcode.trans (if_pos hnamed))
    case pos => exact hrun s.capture _ (hcode.trans ((if_neg hnamed).trans (if_pos hpast)))
    case neg => exact hrun s.capture _ (hcode.trans ((if_neg hnamed).trans (if_neg hpast)))
  case right => exact fun q hcode => hrun s.capture _ (cmdAckCapture_noCode hcode x _)

end Sys2Proof.Machine
end

section
/-! SUPPORT. A put into a capture queue, by its reservation, its room and its mode (R125, R126, R128, R130). -/

namespace Sys2Proof.Machine

namespace CaptureQueue

variable {n : QueueName} {now : Tick} {stale : Half} {useReserved : Bool} {r : CaptureRecord} {q : CaptureQueue}

theorem append_eq (q : CaptureQueue) (now : Tick) (stale : Half) (r : CaptureRecord) :
    q.append now stale r =
      { q with
        records := q.records ++ [{ r with number := q.next }],
        next := q.next + 1,
        staleExpiry := if q.records = [] then (if stale = 0 then none else some (now + stale.setWidth 32))
          else q.staleExpiry } := by
  simp only [append, number, startTimer, List.isEmpty_iff]

theorem countEvents_append (n : QueueName) (q : CaptureQueue) (now : Tick) (stale : Half) (r : CaptureRecord) :
    countEvents n (q.append now stale r) =
      (if q.records.length + 1 = q.watermark then [.captureWatermark n] else []) ++
      (if q.records.length + 1 = Config.queueCapacity n then [.captureFull n] else []) := by
  simp only [countEvents, append, List.length_append, List.length_singleton]

/-- A record put into its reservation uses it up, whatever the room (R125, R126). -/
theorem put_of_placed (h : (useReserved && q.reserved) = true) :
    q.put n now stale useReserved r =
      (({ q with reserved := false }).append now stale r, countEvents n (({ q with reserved := false }).append now stale r)) :=
  if_pos h

/-- Any other record is appended where there is room, a reservation staying as it is (R125). -/
theorem put_of_room (h : (useReserved && q.reserved) = false) (hroom : q.hasRoom (Config.queueCapacity n) = true) :
    q.put n now stale useReserved r = (q.append now stale r, countEvents n (q.append now stale r)) := by
  simp only [put, h, hroom, Bool.false_eq_true, if_false, if_true]

/-- Without a reservation of its own a record finds a full queue: its mode decides (R125). -/
theorem put_of_full (h : (useReserved && q.reserved) = false) (hfull : q.hasRoom (Config.queueCapacity n) = false) :
    q.put n now stale useReserved r =
      (if q.mode = .overwrite then q.overwriteHead r else { q with dropped := true }, [.captureDropped n]) := by
  simp only [put, h, hfull, Bool.false_eq_true, if_false]
  split <;> rfl

end CaptureQueue

/-- Settles O43: the three branches of a put, the reservation taken before the room test. -/
theorem putsFollowTheModeOfTheQueue : Obligations.PutsFollowTheModeOfTheQueue := by
  intro n now stale useReserved r q room placed r' timer count
  refine ⟨fun hkept => ?kept, fun hplaced hfull hmode => ?overwrite, fun hplaced hfull hmode => ?dropped⟩
  case kept =>
    cases hplaced : placed with
    | true =>
      have hreserved : q.reserved = true := (Bool.and_eq_true_iff.mp hplaced).2
      rw [CaptureQueue.put_of_placed hplaced, CaptureQueue.countEvents_append, CaptureQueue.append_eq, hreserved]
      exact ⟨rfl, rfl⟩
    | false =>
      have hroom : room = true := hkept.resolve_left (by rw [hplaced]; exact Bool.false_ne_true)
      rw [CaptureQueue.put_of_room hplaced hroom, CaptureQueue.countEvents_append, CaptureQueue.append_eq,
        Bool.not_false, Bool.and_true]
      exact ⟨rfl, rfl⟩
  case overwrite =>
    rw [CaptureQueue.put_of_full hplaced hfull, if_pos hmode, CaptureQueue.overwriteHead, List.drop_one]
    rfl
  case dropped => rw [CaptureQueue.put_of_full hplaced hfull, if_neg hmode]

end Sys2Proof.Machine
end

section
/-! SUPPORT. A control record that alters the timebase and the event unit alone, and the three commands of chapter 8: SET-TIMING (R158), CLEAR-EVENTS (R162) and SET-EVENT-ENABLES (R163). -/

namespace Sys2Proof.Machine

/-- A command that changes the timebase and the event unit alone, or is refused out of range, runs as one event: the two
take the values given or stay as they are, the reply is placed and the record answered OK. -/
theorem timeEventsRecord_event {s : State} {line : Addr} {code : Byte} {args : List Byte} (h : s.ReadyFor line)
    {inRange : Prop} [Decidable inRange] (t : Timebase) (e : Events) {accepted refused : List Byte}
    (hx : execCode (roomAt (lineOf line)) code (padTo 53 args) (s.clearOut.executing line code args) =
      if inRange then accept (((s.clearOut.executing line code args).withTime t).withEvents e) accepted
      else refuse (s.clearOut.executing line code args) .refusedRange refused) :
    event (fun s => s.presentRecord line code args) s =
      if inRange then ((s.clearOut.withTime t).withEvents e).repliedAccepted line code accepted
      else s.clearOut.repliedRefused line code .refusedRange refused := by
  split_ifs at hx ⊢
  case pos => exact record_quiet h.clearOut code args hx rfl ⟨rfl, rfl, rfl, rfl, rfl, rfl, rfl, rfl⟩
  case neg => exact record_quiet h.clearOut code args hx rfl ⟨rfl, rfl, rfl, rfl, rfl, rfl, rfl, rfl⟩

/-! ### SET-TIMING (R158) -/

/-- The number of the first row out of range in a table whose rows count from `n`; 0 when all are in range. -/
def firstRowOut (n : Nat) (rows : List Bool) : Nat :=
  if rows.all id then 0 else rows.findIdx (fun b => !b) + n

theorem firstRowOut_nil (n : Nat) : firstRowOut n [] = 0 := rfl

theorem firstRowOut_cons (n : Nat) (b : Bool) (rows : List Bool) :
    firstRowOut n (b :: rows) = if b = true then firstRowOut (n + 1) rows else n := by
  cases b with
  | false => simp [firstRowOut, List.findIdx_cons]
  | true => simp [firstRowOut, List.findIdx_cons, Nat.add_assoc, Nat.add_comm 1]

/-- The range checks of the command, one after the other, are the rows of Table 8-1. -/
theorem firstBadTiming_eq (t : TimingSettings) : firstBadTiming t = firstRowOut 1 (timingRows t) := by
  have hzero {w : Nat} (x : BitVec w) : x = 0 ↔ ¬ 1 ≤ x.toNat := by rw [BitVec.toNat_eq]; simp
  have hprescaler : t.prescaler = 0 ∨ 1000 < t.prescaler.toNat ↔
      ¬ (1 ≤ t.prescaler.toNat ∧ t.prescaler.toNat ≤ 1000) := by rw [hzero, not_and_or, not_le (b := 1000)]
  simp only [firstBadTiming, hprescaler]
  simp only [timingRows, firstRowOut_cons, firstRowOut_nil, decide_eq_true_eq, hzero, ite_not, if_true, Nat.reduceAdd]

/-- The timebase from the event that gives it new settings: a changed prescaler restarts the sub-tick count (R155). -/
def Timebase.retimed (b : Timebase) (t : TimingSettings) : Timebase :=
  { tick := b.tick, subTick := if t.prescaler = b.timing.prescaler then b.subTick else 0, timing := t }

theorem cmdSetTiming_eq (t : TimingSettings) (s : State) :
    cmdSetTiming t s =
      if (timingRows t).all id then
        accept (s.withTime (s.time.retimed t)) (timingBytes t ++ [0x00])
      else refuse s .refusedRange
        (timingBytes s.time.timing ++ [byteOf ((timingRows t).findIdx (fun b => !b) + 1)]) := by
  rw [cmdSetTiming, firstBadTiming_eq, firstRowOut]
  split
  case isTrue =>
    rw [if_pos rfl]
    rfl
  case isFalse => rw [if_neg (Nat.succ_ne_zero _)]

/-- Settles O16: the command changes the timebase alone or is refused, so its record runs as one event. -/
theorem setTimingReplacesAllOrNothing : Obligations.SetTimingReplacesAllOrNothing := by
  intro s line t h
  exact congrArg Host.Outcome.next
    (timeEventsRecord_event h (s.time.retimed t) s.events ((execCode_setTiming ..).trans (cmdSetTiming_eq ..)))

/-! ### CLEAR-EVENTS and SET-EVENT-ENABLES (R162, R163) -/

/-- An event set names an unassigned position exactly when it reaches past position 20 (Table 11-2). -/
theorem namesUnassigned_iff (set : BitVec 32) : namesUnassigned set = true ↔ ¬ set.toNat < 2 ^ 21 := by
  have hmask : ~~~ assignedEvents = BitVec.allOnes 32 <<< 21 := by decide
  rw [namesUnassigned, bne_iff_ne, hmask, ← BitVec.shiftLeft_ushiftRight]
  bv_omega

theorem cmdClearEvents_eq (set : BitVec 32) (s : State) :
    cmdClearEvents set s =
      if set.toNat < 2 ^ 21 then
        accept (s.withEvents { flags := s.events.flags &&& ~~~ set, enables := s.events.enables })
          (le4 (s.events.flags &&& ~~~ set).toNat)
      else refuse s .refusedRange [] := by
  simp only [cmdClearEvents, namesUnassigned_iff, ite_not]

theorem cmdSetEventEnables_eq (set : BitVec 32) (s : State) :
    cmdSetEventEnables set s =
      if set.toNat < 2 ^ 21 then
        accept (s.withEvents { flags := s.events.flags, enables := set }) (le4 set.toNat ++ le4 s.events.flags.toNat)
      else refuse s .refusedRange [] := by
  simp only [cmdSetEventEnables, namesUnassigned_iff, ite_not]

/-- Settles O17: each command changes the event unit alone or is refused, so its record runs as one event. -/
theorem eventCommandsActOnTheNamedEvents : Obligations.EventCommandsActOnTheNamedEvents := by
  constructor
  case left =>
    intro s line set h
    exact congrArg Host.Outcome.next
      (timeEventsRecord_event h s.time _ ((execCode_clearEvents ..).trans (cmdClearEvents_eq ..)))
  case right =>
    intro s line set h
    exact congrArg Host.Outcome.next
      (timeEventsRecord_event h s.time _ ((execCode_setEventEnables ..).trans (cmdSetEventEnables_eq ..)))

end Sys2Proof.Machine
end

section
/-! SUPPORT. Laws of the units that hold records and settings (the capture and rule units, the working key, the timebase, the fuses, the profile in use): what keeps such a law under every effect of an event. -/

namespace Sys2Proof.Machine

namespace State

variable (s : State)

@[simp] theorem endOverlay_control : s.endOverlay.control = { s.control with overlay := none } := by
  unfold endOverlay
  split
  case h_1 h => rw [← h]
  case h_2 => simp

@[simp] theorem overlayWritten_key (line : Addr) : (s.overlayWritten line).control.key = s.control.key ∧
    (s.overlayWritten line).control.enable = s.control.enable := by
  unfold overlayWritten
  split
  case h_1 => exact ⟨rfl, rfl⟩
  case h_2 => split <;> simp

@[simp] theorem placeReply_key : s.placeReply.control.key = s.control.key ∧
    s.placeReply.control.enable = s.control.enable := by
  unfold placeReply
  split
  case h_1 => split <;> simp
  case h_2 => exact ⟨rfl, rfl⟩

@[simp] theorem acceptSoftReset_control : s.acceptSoftReset.control = { s.control with softReset := true } := by
  simp [acceptSoftReset]

/-- The units that keep records and settings: every effect but those on records, rules, settings and fuses leaves them. -/
def units : CaptureUnit × RuleUnit × List Byte × Bool × Timebase × Fuses × Option (List Byte) :=
  (s.capture, s.rule, s.control.key, s.control.enable, s.time, s.fuses, s.profile)

end State

/-- What each effect keeps but the increment of the tick counter: a law of timers is kept by all of these, and by a tick only
as a whole. -/
structure Steady (P : State → Prop) : Prop where
  clearOut : ∀ s, P s → P s.clearOut
  pending : ∀ s q, P s → P (s.withPending q)
  guard : ∀ s g, P s → P (s.setGuard g)
  presentRead : ∀ s line o n, P s → P (s.presentRead line o n)
  presentWrite : ∀ s req, P s → P (s.presentWrite req)
  softReset : ∀ s, P s → s.softResetDue = true → P s.softResetEffect
  release : ∀ s, P s → s.canReleaseWrite = true → P s.releaseWrite
  hazards : ∀ s, P s → P s.releaseHazards
  withdraw : ∀ s, P s → P s.withdrawSleep
  grant : ∀ s, P s → s.canGrant = true → P s.grantNext
  answer : ∀ s, P s → s.canAnswer = true → P s.answerOldest
  drain : ∀ s, P s → s.drainDue = true → P s.completeDrain
  safe : ∀ s, P s → s.safeDue = true → P s.enterSafe
  reply : ∀ s, P s → s.canPlaceReply = true → P s.placeReply
  read : ∀ s, P s → s.canAcceptRead = true → P s.acceptNextRead
  write : ∀ s, P s → s.canAcceptWrite = true → P s.acceptNextWrite
  completeRead : ∀ s bytes, P s → P (s.completeRead bytes)
  pollStatus : ∀ s st, P s → P (s.pollStatus st)
  deferred : ∀ s, P s → P s.deferredDue
  suspendLimit : ∀ s st, P s → P (s.suspendLimit st)
  timeLimit : ∀ s, P s → P s.timeLimit
  wakeEnd : ∀ s st, P s → P (s.wakeEndDue st)
  startupLimit : ∀ s, P s → P s.startupLimitDue
  hold : ∀ s, P s → P s.holdExpired
  idle : ∀ s i, P s → P (s.idleExpired i)
  age : ∀ s i, P s → P (s.ageExpired i)
  stale : ∀ s q, P s → P (s.staleExpired q)
  drainExpired : ∀ s, P s → P s.drainExpired
  overlay : ∀ s, P s → P s.overlayExpired
  tickPoll : ∀ s st, P s → P (s.tickPoll st)
  subTick : ∀ s n, P s → P (s.withTime { s.time with subTick := n })
  draw : ∀ s, P s → P s.draw
  fuses : ∀ s failed, P s → P (s.completeFuses failed)
  high : ∀ s, P s → P s.pwrwarnHigh
  low : ∀ s, P s → P s.pwrwarnLow

theorem Steady.kept {P : State → Prop} (k : Steady P) (increment : ∀ s : State, P s → P s.increment) : Kept P :=
  { k with increment := increment }

theorem Kept.steady {P : State → Prop} (k : Kept P) : Steady P := { k with }

theorem Steady.trivial : Steady fun _ => True := by constructor <;> exact fun _ => by simp

/-- A law of the units: it rests on them alone, and each operation that alters one of them keeps it. -/
structure UnitLaw (P : State → Prop) : Prop where
  frame : ∀ {s t : State}, P s → t.units = s.units → P t
  put : ∀ s n u r, P s → P (s.putRecord n u r)
  release : ∀ s n, P s → P (s.release n)
  reserve : ∀ s n, (s.capture.queue n).hasRoom (Config.queueCapacity n) = true → P s → P (s.reserve n)
  latch : ∀ s n r, P s → P (s.latchCopy n r)
  stale : ∀ s n, P s → P (s.expireStale n)
  urgent : ∀ s d, P s → P (s.noteUrgent d)
  guard : ∀ s g, P s → P (s.setGuard g)
  setTiming : ∀ s t, P s → P (cmdSetTiming t s).1
  setRule : ∀ s a, P s → P (cmdSetRule a s).1
  setDefault : ∀ s a c, P s → P (cmdSetDefault a c s).1
  setFence : ∀ s a c d, P s → P (cmdSetFence a c d s).1
  setLock : ∀ s l, P s → P (cmdSetLock l s).1
  setQueue : ∀ s q m w, P s → P (cmdSetQueue q m w s).1
  fetchCapture : ∀ s n q m, P s → P (cmdFetchCapture n q m s).1
  ackCapture : ∀ s q n, P s → P (cmdAckCapture q n s).1
  releaseSlot : ∀ s n, P s → P (cmdReleaseSlot n s).1
  lockFuse : ∀ s g, P s → P (cmdLockFuse g s).1
  addFuses : ∀ s g k d, P s → P (s.withFuses (s.fuses.setGroup g (addBits (s.fuses.group g) k d)))
  subTick : ∀ s n, P s → P (s.withTime { s.time with subTick := n })
  softReset : ∀ s, P s → P s.softResetValues

namespace UnitLaw

variable {P : State → Prop} (k : UnitLaw P) {s : State}
include k

/-! ### Answers and the read lane -/

theorem captureRead (r : Read) (o : CaptureOutcome) (h : P s) : P (s.captureRead r o) := by
  unfold State.captureRead
  split
  case h_1 => exact h
  case h_2 =>
    split
    case h_1 => exact h
    case h_2 => exact k.put _ _ _ _ h

theorem recordRefusal (x : RefusalReason) (a : Access) (line : Addr) (d : Option Decision) (h : P s) :
    P (s.recordRefusal x a line d) := k.frame h rfl

theorem answerRead (r : Read) (res : ReadResult) (h : P s) : P (s.answerRead r res) := by
  unfold State.answerRead
  split
  case h_1 => exact k.captureRead _ _ (k.frame h rfl)
  case h_2 => exact k.recordRefusal _ _ _ _ (k.captureRead _ _ (k.frame h rfl))

theorem answerOldest (h : P s) : P s.answerOldest := by
  unfold State.answerOldest
  split
  case h_1 =>
    split
    case h_1 => exact k.answerRead _ _ (k.frame h rfl)
    case h_2 => exact h
  case h_2 => exact h

theorem answerAll (h : P s) : P s.answerAll :=
  foldl_preserves (fun _ _ => k.answerRead _ _) _ _ (k.frame h rfl)

theorem decideRead (tag : Nat) (req : ReadReq) (h : P s) : P (s.decideRead tag req) := by
  have hu := k.urgent s (s.decisionFor .read req.line) h
  simp only [State.decideRead]
  split <;> exact k.frame hu (by simp [State.units])

theorem acceptRead (req : ReadReq) (h : P s) : P (s.acceptRead req) := by
  simp only [State.acceptRead]
  split_ifs
  case neg => exact k.decideRead _ _ h
  all_goals exact k.frame h (by simp [State.units])

theorem acceptNextRead (h : P s) : P s.acceptNextRead := by
  unfold State.acceptNextRead
  split
  case h_1 => exact h
  case h_2 => exact k.acceptRead _ (k.frame h rfl)

/-! ### The write lane -/

theorem captureWrite (w : WriteInProgress) (u : Bool) (o : CaptureOutcome) (b : List Byte) (h : P s) :
    P (s.captureWrite w u o b) := by
  unfold State.captureWrite
  split
  case h_1 => exact h
  case h_2 =>
    split
    case h_1 => exact h
    case h_2 => exact k.put _ _ _ _ h

theorem latchWrite (w : WriteInProgress) (b : List Byte) (h : P s) : P (s.latchWrite w b) := by
  unfold State.latchWrite
  split
  case h_1 => exact k.latch _ _ _ h
  case h_2 => exact h

theorem overlayWritten (line : Addr) (h : P s) : P (s.overlayWritten line) := k.frame h (by simp [State.units])

theorem updateResults (w : WriteReq) (h : P s) : P (s.updateResults w) := k.frame h rfl

theorem answerWrite (w : WriteInProgress) (work : Image) (h : P s) : P (s.answerWrite w work) := by
  simp only [State.answerWrite]
  exact k.overlayWritten _ (k.updateResults _ (k.latchWrite _ _ (k.captureWrite _ _ _ _ (k.frame h rfl))))

theorem releaseFor (d : Option Decision) (h : P s) : P (s.releaseFor d) := by
  unfold State.releaseFor
  split
  case h_1 => exact k.release _ _ h
  case h_2 => exact h

theorem refuseWrite (w : WriteInProgress) (x : RefusalReason) (h : P s) : P (s.refuseWrite w x) := by
  simp only [State.refuseWrite]
  exact k.recordRefusal _ _ _ _ (k.captureWrite _ _ _ _ (k.releaseFor _ (k.frame h rfl)))

theorem landWrite (w : WriteInProgress) (i : Nat) (e : Entry) (h : P s) : P (s.landWrite w i e) :=
  k.answerWrite _ _ (k.frame h (by simp [State.units]))

theorem stageWrite (w : WriteInProgress) (h : P s) : P (s.stageWrite w) := by
  obtain ⟨x, hx⟩ := Stages.total s w
  rw [hx.stageWrite_eq]
  cases hx with
  | merge => exact k.landWrite _ _ _ h
  | committing => exact k.frame h rfl
  | faulted => exact k.refuseWrite _ _ h
  | allocate => exact k.landWrite _ _ _ (k.frame h rfl)
  | pressure => exact k.frame h rfl
  | noEntry => exact k.frame h rfl

theorem fenceStage (w : WriteInProgress) (h : P s) : P (s.fenceStage w) := by
  obtain ⟨x, hx⟩ := Decides.total s w
  have hd : P (s.decided w) := k.urgent _ _ h
  rw [hx.fenceStage_eq]
  cases hx with
  | fence => exact k.refuseWrite _ _ hd
  | denied => exact k.refuseWrite _ _ hd
  | media => exact k.refuseWrite _ _ hd
  | noSpace => exact k.frame hd rfl
  | strict q x _ _ _ hroom hx =>
    rw [← hx.stageWrite_eq]
    exact k.stageWrite _ (k.reserve _ _ (by simpa [State.decided, CaptureQueue.hasRoom] using hroom) hd)
  | plain x _ _ hx => exact hx.stageWrite_eq ▸ k.stageWrite _ hd

theorem powerStage (w : WriteInProgress) (h : P s) : P (s.powerStage w) := by
  obtain ⟨x, hx⟩ := Admits.total s w
  rw [hx.powerStage_eq]
  cases hx with
  | run x _ hx => exact hx.fenceStage_eq ▸ k.fenceStage _ h
  | drain x _ _ hx => exact hx.fenceStage_eq ▸ k.fenceStage _ (k.frame h (by simp [State.units]))
  | abort x _ _ hx => exact hx.fenceStage_eq ▸ k.fenceStage _ (k.frame h (by simp [State.units]))
  | wakes => exact k.frame h (by simp [State.units, State.heldFor])
  | waits => exact k.frame h rfl
  | refused => exact k.refuseWrite _ _ h
  | unconfigured => exact k.refuseWrite _ _ h

theorem releaseWrite (h : P s) : P s.releaseWrite := by
  unfold State.releaseWrite
  split
  case h_1 => exact h
  case h_2 =>
    split
    · exact k.fenceStage _ h
    · exact k.stageWrite _ h
    · exact k.stageWrite _ h
    · exact h

theorem refuseHeld (h : P s) : P s.refuseHeld := by
  unfold State.refuseHeld
  split
  case h_1 =>
    split
    case h_1 => exact k.refuseWrite _ _ h
    case h_2 => exact h
  case h_2 => exact h

theorem holdExpired (h : P s) : P s.holdExpired := by
  unfold State.holdExpired
  split
  case h_1 =>
    split
    case h_1 =>
      split
      case isTrue => exact k.refuseWrite _ _ (k.frame h rfl)
      case isFalse => exact h
    case h_2 => exact h
  case h_2 => exact h

/-! ### Power warning and start-up -/

theorem enterEmergency (h : P s) : P s.enterEmergency := by
  have hc : P ((s.setPowerSt .emergency).withStaging (s.staging.closeAll .emergency)) := k.frame h (by simp [State.units])
  exact k.refuseHeld hc

theorem takeAssertion (h : P s) : P s.takeAssertion := by
  unfold State.takeAssertion
  split
  case h_3 => exact k.enterEmergency (k.frame h rfl)
  case h_4 => exact k.enterEmergency (k.frame h rfl)
  case h_5 => exact k.enterEmergency (k.frame h (by simp [State.units]))
  all_goals exact k.frame h (by simp [State.units])

theorem pwrwarnHigh (h : P s) : P s.pwrwarnHigh := by
  unfold State.pwrwarnHigh
  split
  case isTrue => exact h
  case isFalse => exact k.takeAssertion (k.frame h rfl)

theorem endStartup (x : SeqState) (h : P s) : P (s.endStartup x) := by
  simp only [State.endStartup]
  split
  case isTrue => exact k.takeAssertion (k.frame h rfl)
  case isFalse => exact k.frame h rfl

theorem stallStartup (h : P s) : P s.stallStartup := k.endStartup _ (k.frame h rfl)

theorem wakeEnded (st : Byte) (h : P s) : P (s.wakeEnded st) := by
  unfold State.wakeEnded
  split
  case isTrue =>
    simp only [State.firstStatus]
    split
    case h_1 => exact k.endStartup _ (k.frame h rfl)
    all_goals exact k.frame h (by simp [State.units])
  case isFalse => exact k.frame h (by simp [State.units])

theorem wakeEndDue (st : Byte) (h : P s) : P (s.wakeEndDue st) := by
  unfold State.wakeEndDue
  split
  case h_1 =>
    split
    case isTrue => exact k.wakeEnded st h
    case isFalse => exact h
  case h_2 => exact h

theorem tickPoll (st : Byte) (h : P s) : P (s.tickPoll st) := by
  unfold State.tickPoll
  split
  case h_1 => exact k.frame h (by simp [State.units])
  case h_2 =>
    simp only [State.startupPoll]
    split
    case h_1 => exact k.endStartup _ (k.frame h rfl)
    case h_2 => exact k.frame h rfl
    case h_3 => split <;> exact k.frame h (by simp [State.units])
  case h_3 => exact h

theorem startupLimitDue (h : P s) : P s.startupLimitDue := by
  unfold State.startupLimitDue
  split
  case h_1 =>
    split
    case isTrue => exact k.stallStartup h
    case isFalse => exact h
  case h_2 => exact h

theorem softResetEffect (h : P s) : P s.softResetEffect := by
  have hv : P s.answerControl.softResetValues := k.softReset _ (k.frame h (by simp [State.units]))
  simp only [State.softResetEffect]
  split_ifs
  · exact k.takeAssertion (k.frame hv rfl)
  · exact k.frame hv rfl
  · exact k.takeAssertion hv
  · exact hv

/-! ### Control records -/

theorem softResetCommand (d : Byte) (h : P s) : P (cmdSoftReset d s).1 := by
  simp only [cmdSoftReset]
  split
  case h_1 => exact h
  case h_2 =>
    split
    case isTrue => exact h
    case isFalse =>
      have ha : P s.awaitReset := k.frame h (by unfold State.awaitReset; split <;> rfl)
      refine k.frame (k.answerAll (s := ((s.awaitReset.setLanes false).withControl
        { s.awaitReset.control with softReset := true })) (k.frame ha rfl)) ?_
      simp [State.units, State.acceptSoftReset]

theorem execCode (room : Nat) (code : Byte) (a : List Byte) (h : P s) : P (execCode room code a s).1 := by
  unfold Machine.execCode
  split
  case h_3 => exact k.softResetCommand _ h
  case h_4 => exact k.setTiming _ _ h
  case h_7 => exact k.setRule _ _ h
  case h_9 => exact k.setDefault _ _ _ h
  case h_10 => exact k.setFence _ _ _ _ h
  case h_11 => exact k.setLock _ _ h
  case h_12 => exact k.setQueue _ _ _ _ h
  case h_13 => exact k.fetchCapture _ _ _ _ h
  case h_14 => exact k.ackCapture _ _ _ h
  case h_16 => exact k.releaseSlot _ _ h
  case h_26 => exact k.lockFuse _ _ h
  all_goals exact k.frame h (by simp [State.units])

theorem finishCommand {code : Byte} {r : CommandResult} (h : P r.1) : P (finishCommand code r) :=
  k.frame h (by simp [State.units])

theorem recognise (w : WriteInProgress) (h : P s) : P (s.recognise w) := by
  unfold State.recognise
  split
  case isTrue =>
    split
    case h_1 =>
      split
      case isTrue =>
        simp only [State.consumeRecord]
        exact k.finishCommand (k.execCode _ _ _ (k.frame h (by simp [State.units])))
      case isFalse => exact k.powerStage _ (k.frame h rfl)
    case h_2 => exact k.powerStage _ h
  case isFalse => exact k.powerStage _ h

theorem acceptNextWrite (h : P s) : P s.acceptNextWrite := by
  unfold State.acceptNextWrite
  split
  case h_1 => exact h
  case h_2 =>
    simp only [State.acceptWrite]
    split
    case isTrue => exact k.refuseWrite _ _ (k.frame h rfl)
    case isFalse => exact k.recognise _ (k.frame h rfl)

theorem setReply (code : Byte) (r : Reply) (h : P s) : P (s.setReply code r) := k.frame h (by simp [State.units])

theorem completeFuses (failed : List Byte) (h : P s) : P (s.completeFuses failed) := by
  simp only [State.completeFuses]
  split
  case h_1 =>
    split
    case h_1 => exact k.setReply _ _ (k.addFuses _ _ _ _ h)
    case h_2 => exact h
  case h_2 => exact h

theorem staleExpired (q : QueueName) (h : P s) : P (s.staleExpired q) := by
  unfold State.staleExpired
  split
  case isTrue => exact k.stale _ _ h
  case isFalse => exact h

/-- A law of the units is kept by every effect but the increment. -/
theorem steady : Steady P where
  clearOut _ h := k.frame h rfl
  pending _ _ h := k.frame h rfl
  guard s g h := k.guard s g h
  presentRead _ _ _ _ h := k.frame h rfl
  presentWrite _ _ h := k.frame h rfl
  softReset _ h _ := k.softResetEffect h
  release _ h _ := k.releaseWrite h
  hazards _ h := k.frame h (by simp [State.units])
  withdraw _ h := k.frame h (by simp [State.units])
  grant _ h _ := k.frame h (by simp [State.units])
  answer _ h _ := k.answerOldest h
  drain _ h _ := k.frame h (by simp [State.units])
  safe _ h _ := k.frame h (by simp [State.units])
  reply _ h _ := k.frame h (by simp [State.units])
  read _ h _ := k.acceptNextRead h
  write _ h _ := k.acceptNextWrite h
  completeRead _ _ h := k.frame h (by simp [State.units])
  pollStatus _ _ h := k.frame h (by simp [State.units])
  deferred _ h := k.frame h (by simp [State.units])
  suspendLimit _ _ h := k.frame h (by simp [State.units])
  timeLimit _ h := k.frame h (by simp [State.units])
  wakeEnd _ st h := k.wakeEndDue st h
  startupLimit _ h := k.startupLimitDue h
  hold _ h := k.holdExpired h
  idle _ _ h := k.frame h (by simp [State.units])
  age _ _ h := k.frame h (by simp [State.units])
  stale _ q h := k.staleExpired q h
  drainExpired _ h := k.frame h (by simp [State.units])
  overlay _ h := k.frame h (by simp [State.units, State.overlayExpired]; split <;> (try split) <;> simp)
  tickPoll _ st h := k.tickPoll st h
  subTick s n h := k.subTick s n h
  draw _ h := k.frame h rfl
  fuses _ failed h := k.completeFuses failed h
  high _ h := k.pwrwarnHigh h
  low _ h := k.frame h (by simp [State.units])

/-- A law of the units that an increment keeps is a law of the part. -/
theorem kept (increment : ∀ s : State, P s → P s.increment) : Kept P := k.steady.kept increment

end UnitLaw

end Sys2Proof.Machine
end

section
/-! SUPPORT. The four commands that restart the part (R182): what keeps a law under them, and so under every step. -/

namespace Sys2Proof.Machine

/-- What a law that outlives a restart keeps: the tearing of the fuses, the supply and the RESET pin, the power-on values,
start-up. -/
structure Restarts (P : State → Prop) : Prop where
  tear : ∀ s, P s → P s.tearFuses
  powered : ∀ (s : State) b, P s → P { s with powered := b }
  resetHeld : ∀ (s : State) b, P s → P { s with resetHeld := b }
  powerOn : ∀ s, P s → P s.powerOnValues
  startUp : ∀ s st, P s → P (s.startUp st)

namespace Restarts

variable {P : State → Prop} (r : Restarts P) {s : State}
include r

theorem losePower (h : P s) : P s.losePower := r.powered _ _ (r.powerOn _ (r.tear _ h))

theorem assertReset (h : P s) : P s.assertReset := r.resetHeld _ _ (r.powerOn _ (r.tear _ h))

theorem gainPower (st : Byte) (h : P s) : P (s.gainPower st) := by
  have hp := r.powered s true h
  simp only [State.gainPower]
  split
  case isTrue => exact r.powerOn _ hp
  case isFalse => exact r.startUp _ st hp

theorem releaseReset (st : Byte) (h : P s) : P (s.releaseReset st) := by
  have hp := r.resetHeld s false h
  simp only [State.releaseReset]
  split_ifs
  · exact r.startUp _ st hp
  · exact hp
  · exact h

/-- A law that outlives a restart, and the effects of an event, is kept by the commands that restart the part. -/
theorem command (clearOut : ∀ s, P s → P s.clearOut) (settles : ∀ s, P s → P (settle s)) {c : Instr} {t : State}
    (hc : c.restarts = true) (h : P s) (e : exec c s = .next t) : P t := by
  replace h := clearOut _ h
  cases c
  case powerOn st =>
    rw [← next_inj e]
    refine settles _ (r.gainPower st ?_)
    split
    case isTrue => exact r.losePower h
    case isFalse => exact h
  case resetPinAssertion => exact next_inj e ▸ settles _ (r.assertReset h)
  case resetPinRelease st => exact next_inj e ▸ settles _ (r.releaseReset st h)
  case powerLoss => exact next_inj e ▸ settles _ (r.losePower h)
  all_goals exact absurd hc Bool.false_ne_true

end Restarts

/-- A law that the effects of an event and the restarts keep is kept by every step. -/
theorem Kept.step {P : State → Prop} (k : Kept P) (r : Restarts P) {s t : State} (h : P s) (e : step s = .next t) : P t :=
  k.everyStep h (fun _ _ _ h hc e => r.command k.clearOut (fun _ => k.settle) hc h e) e

/-- A law of the units outlives a restart where the power-on values and the reading of the fuses keep it. -/
theorem UnitLaw.restarts {P : State → Prop} (k : UnitLaw P) (powerOn : ∀ s, P s → P s.powerOnValues)
    (readFuses : ∀ s, P s → P s.readFuses) : Restarts P where
  tear s h := by
    unfold State.tearFuses
    split
    case h_1 => exact k.frame (k.addFuses _ _ _ _ h) rfl
    case h_2 => exact h
  powered _ _ h := k.frame h rfl
  resetHeld _ _ h := k.frame h rfl
  powerOn := powerOn
  startUp s st h := by
    have hr := readFuses _ (powerOn s h)
    simp only [State.startUp]
    split
    case h_1 => exact k.frame hr rfl
    case h_2 => exact k.wakeEndDue st (k.frame hr rfl)

end Sys2Proof.Machine
end

section
/-! SUPPORT. The capture law (R124): what each operation of a queue does to its occupancy and its sequence numbers. -/

namespace Sys2Proof.Machine

namespace CaptureQueue

variable {n : QueueName} {q : CaptureQueue}

/-- The law speaks of the records, the next number and the reservation alone. -/
theorem lawful.congr {q' : CaptureQueue} (h : q.lawful n) (hr : q'.records = q.records) (hn : q'.next = q.next)
    (hres : q'.reserved = q.reserved) : q'.lawful n := by
  unfold lawful occupancy at h ⊢
  rw [hr, hn, hres]
  exact h

theorem lawful_initial (w : Nat) : (initial w).lawful n := ⟨Nat.zero_le _, fun i r h => by cases h⟩

theorem lawful.reserve (h : q.lawful n) (hroom : q.hasRoom (Config.queueCapacity n) = true) :
    { q with reserved := true }.lawful n := by
  refine ⟨?_, h.2⟩
  have hlt : q.occupancy < Config.queueCapacity n := of_decide_eq_true hroom
  simp only [occupancy, if_true] at hlt ⊢
  omega

theorem lawful.release (h : q.lawful n) : { q with reserved := false }.lawful n := by
  refine ⟨le_trans ?_ h.1, h.2⟩
  simp [occupancy]

/-- A record that takes the next number at the tail keeps the numbers consecutive. -/
theorem consecutive_append {rs : List CaptureRecord} {next : BitVec 32}
    (h : ∀ i r, rs[i]? = some r → r.number = next - BitVec.ofNat 32 (rs.length - i)) (x : CaptureRecord)
    (hx : x.number = next) (i : Nat) (r : CaptureRecord) (hr : (rs ++ [x])[i]? = some r) :
    r.number = next + 1 - BitVec.ofNat 32 ((rs ++ [x]).length - i) := by
  obtain hi | hi := Nat.lt_or_ge i rs.length
  case inl =>
    rw [List.getElem?_append_left hi] at hr
    rw [h i r hr, List.length_append, List.length_singleton, show rs.length + 1 - i = (rs.length - i) + 1 by omega]
    bv_omega
  case inr =>
    have hlt := (List.getElem?_eq_some_iff.mp hr).1
    have hi' : i = rs.length := by simp at hlt; omega
    subst hi'
    simp only [List.getElem?_concat_length, Option.some.injEq] at hr
    subst hr
    simp [hx]

/-- The records left once some leave the head are consecutive. -/
theorem consecutive_drop {rs : List CaptureRecord} {next : BitVec 32}
    (h : ∀ i r, rs[i]? = some r → r.number = next - BitVec.ofNat 32 (rs.length - i)) (k : Nat) (i : Nat) (r : CaptureRecord)
    (hr : (rs.drop k)[i]? = some r) : r.number = next - BitVec.ofNat 32 ((rs.drop k).length - i) := by
  rw [List.getElem?_drop] at hr
  rw [h _ _ hr, List.length_drop, Nat.sub_sub]

theorem occupancy_append (q : CaptureQueue) (now : Tick) (stale : Half) (r : CaptureRecord) :
    (q.append now stale r).occupancy = q.occupancy + 1 := by
  simp only [occupancy, CaptureQueue.append, List.length_append, List.length_singleton]
  exact Nat.add_right_comm ..

theorem lawful.append (h : q.lawful n) (hroom : q.occupancy < Config.queueCapacity n) (now : Tick) (stale : Half)
    (r : CaptureRecord) : (q.append now stale r).lawful n := by
  refine ⟨?_, consecutive_append h.2 (q.number r) rfl⟩
  rw [occupancy_append]
  exact hroom

theorem lawful.overwriteHead (h : q.lawful n) (hfull : Config.queueCapacity n ≤ q.occupancy) (r : CaptureRecord) :
    (q.overwriteHead r).lawful n := by
  refine ⟨?_, consecutive_append (consecutive_drop h.2 1) (q.number r) rfl⟩
  have hcap : 2 ≤ Config.queueCapacity n := by cases n <;> decide
  have hocc := h.1
  simp only [occupancy, CaptureQueue.overwriteHead, List.length_append, List.length_singleton, List.length_drop] at hocc hfull ⊢
  split at hfull <;> split at hocc <;> simp_all <;> omega

theorem lawful.put (h : q.lawful n) (now : Tick) (stale : Half) (u : Bool) (r : CaptureRecord) :
    (q.put n now stale u r).1.lawful n := by
  by_cases hplaced : (u && q.reserved) = true
  case pos =>
    have hres : q.reserved = true := (Bool.and_eq_true_iff.mp hplaced).2
    rw [put_of_placed hplaced]
    refine h.release.append ?_ now stale r
    have := h.1
    simp only [occupancy, hres, if_true, Bool.false_eq_true, if_false] at this ⊢
    omega
  case neg =>
    rw [Bool.not_eq_true] at hplaced
    cases hroom : q.hasRoom (Config.queueCapacity n) with
    | true =>
      rw [put_of_room hplaced hroom]
      exact h.append (of_decide_eq_true hroom) now stale r
    | false =>
      rw [put_of_full hplaced hroom]
      split
      case isTrue => exact h.overwriteHead (Nat.le_of_not_lt (of_decide_eq_false hroom)) r
      case isFalse => exact h.congr rfl rfl rfl

theorem lawful.remove (h : q.lawful n) (now : Tick) (stale : Half) (k : Nat) : (q.remove now stale k).lawful n := by
  unfold CaptureQueue.remove
  split
  case isTrue => exact h
  case isFalse =>
    refine ⟨le_trans ?_ h.1, consecutive_drop h.2 k⟩
    simp [occupancy]

end CaptureQueue

@[simp] theorem CaptureUnit.setQueue_slots (c : CaptureUnit) (n : QueueName) (q : CaptureQueue) :
    (c.setQueue n q).slots = c.slots := by cases n <;> rfl

namespace State.CaptureLaw

variable {s : State}

theorem queue (h : s.CaptureLaw) (n : QueueName) : (s.capture.queue n).lawful n := by
  cases n
  case a => exact h.1
  case b => exact h.2

/-- A change of one queue to a lawful one keeps the law. -/
theorem setQueue {t : State} (h : s.CaptureLaw) (n : QueueName) {q : CaptureQueue}
    (ht : t.capture = s.capture.setQueue n q) (hq : q.lawful n) : t.CaptureLaw := by
  unfold State.CaptureLaw
  rw [ht]
  cases n
  case a => exact ⟨hq, h.2⟩
  case b => exact ⟨h.1, hq⟩

theorem congr {t : State} (h : s.CaptureLaw) (ha : t.capture.a = s.capture.a) (hb : t.capture.b = s.capture.b) :
    t.CaptureLaw := by
  unfold State.CaptureLaw
  rw [ha, hb]
  exact h

theorem frame {t : State} (h : s.CaptureLaw) (ht : t.capture = s.capture) : t.CaptureLaw :=
  h.congr (by rw [ht]) (by rw [ht])

theorem initial {t : State} (ht : t.capture = CaptureUnit.initial) : t.CaptureLaw := by
  unfold State.CaptureLaw
  rw [ht]
  exact ⟨CaptureQueue.lawful_initial 24, CaptureQueue.lawful_initial 12⟩

end State.CaptureLaw

/-- The capture law is a law of the units. -/
theorem captureLaw_unitLaw : UnitLaw State.CaptureLaw where
  frame h e := h.frame (congrArg (·.1) e)
  put s n u r h := h.setQueue n (by simp [State.putRecord]; rfl) ((h.queue n).put s.now _ u r)
  release s n h := h.setQueue n rfl (h.queue n).release
  reserve s n hroom h := h.setQueue n rfl ((h.queue n).reserve hroom)
  latch s n r h := h.congr rfl rfl
  stale s n h := h.setQueue n rfl ((h.queue n).congr rfl rfl rfl)
  urgent s d h := h.frame (by simp)
  guard s g h := h.frame rfl
  setTiming s t h := h.frame (by simp)
  setRule s a h := h.frame (by simp)
  setDefault s a c h := h.frame (by simp)
  setFence s a c d h := h.frame (by simp)
  setLock s l h := h.frame (by simp)
  setQueue s q m w h := by
    simp only [cmdSetQueue]
    split
    case h_1 n m' _ _ =>
      split
      case isTrue => exact h
      case isFalse => exact h.setQueue n rfl ((h.queue n).congr rfl rfl rfl)
    case h_2 => exact h
  fetchCapture s room q m h := by
    simp only [cmdFetchCapture]
    split
    case h_1 => exact h
    case h_2 n _ =>
      split
      case isTrue => exact h
      case isFalse => exact h.setQueue n rfl ((h.queue n).congr rfl rfl rfl)
  ackCapture s q x h := by
    simp only [cmdAckCapture]
    split
    case h_1 => exact h
    case h_2 n _ =>
      split
      case h_1 => exact h
      case h_2 => exact h.setQueue n rfl ((h.queue n).remove _ _ _)
  releaseSlot s n h := by
    simp only [cmdReleaseSlot]
    split
    case isTrue => exact h
    case isFalse => exact h.congr rfl rfl
  lockFuse s g h := h.frame (by simp)
  addFuses s g k d h := h.frame rfl
  subTick s n h := h.frame rfl
  softReset s _ := .initial rfl

/-- Settles O6: the capture law is a law of the units, which an increment, a restart and the reading of the fuses keep. -/
theorem stepsKeepTheCaptureLaw : Obligations.StepsKeepTheCaptureLaw := by
  intro s t
  have k := captureLaw_unitLaw
  exact (k.kept fun _ h => h.frame rfl).step (k.restarts (fun _ _ => .initial rfl) fun _ h => h.frame rfl)

end Sys2Proof.Machine
end

section
/-! SUPPORT. FROZEN (R118), and fuses that only gain bits (R177, R179, R181): two laws of the units that hold between restarts. -/

namespace Sys2Proof.Machine

/-! ### FROZEN -/

/-- The rule list, the default decision and the fence are those of `u`, and the lock state is FROZEN. -/
def RuleUnit.FrozenAs (u v : RuleUnit) : Prop :=
  v.rules = u.rules ∧ v.defaultDeny = u.defaultDeny ∧ v.defaultCapture = u.defaultCapture ∧ v.fence = u.fence ∧
  v.lock = .frozen

theorem RuleUnit.forbidsChange_of_frozen {u : RuleUnit} (h : u.lock = .frozen) : u.forbidsChange = true :=
  u.forbidsChange_iff.mpr (Or.inl h)

/-- In FROZEN the four commands that change the rule unit change nothing (R118, R119). -/
theorem cmdSetRule_frozen {s : State} (h : s.rule.lock = .frozen) (a : RuleArgs) : (cmdSetRule a s).1 = s := by
  rw [cmdSetRule, if_pos (RuleUnit.forbidsChange_of_frozen h), refuse_fst]

theorem cmdSetDefault_frozen {s : State} (h : s.rule.lock = .frozen) (a c : Byte) : (cmdSetDefault a c s).1 = s := by
  rw [cmdSetDefault_locked (RuleUnit.forbidsChange_of_frozen h), refuse_fst]

theorem cmdSetFence_frozen {s : State} (h : s.rule.lock = .frozen) (a c d : Byte) : (cmdSetFence a c d s).1 = s := by
  rw [cmdSetFence, if_pos (RuleUnit.forbidsChange_of_frozen h), ite_self, refuse_fst]

theorem cmdSetLock_frozen {s : State} (h : s.rule.lock = .frozen) (l : Byte) : (cmdSetLock l s).1 = s := by
  unfold cmdSetLock
  rw [h]
  cases lockArg l <;> rfl

theorem frozen_unitLaw (u : RuleUnit) : UnitLaw fun s => u.FrozenAs s.rule where
  frame {s t} h e := by
    have hr : t.rule = s.rule := congrArg (·.2.1) e
    rwa [hr]
  put s n w r h := by simpa using h
  release s n h := h
  reserve s n _ h := h
  latch s n r h := h
  stale s n h := h
  urgent s d h := by
    unfold State.noteUrgent
    split <;> exact h
  guard s g h := h
  setTiming s t h := by simpa using h
  setRule s a h := by rwa [cmdSetRule_frozen h.2.2.2.2]
  setDefault s a c h := by rwa [cmdSetDefault_frozen h.2.2.2.2]
  setFence s a c d h := by rwa [cmdSetFence_frozen h.2.2.2.2]
  setLock s l h := by rwa [cmdSetLock_frozen h.2.2.2.2]
  setQueue s q m w h := by simpa using h
  fetchCapture s n q m h := by simpa using h
  ackCapture s q n h := by simpa using h
  releaseSlot s n h := by simpa using h
  lockFuse s g h := by simpa using h
  addFuses s g k d h := h
  subTick s n h := h
  softReset s h := h

/-- Settles O11: what FROZEN keeps is a law of the units, and so kept by every command that does not restart the part. -/
theorem frozenKeepsTheRules : Obligations.FrozenKeepsTheRules := by
  intro c s t hlock hc e
  exact ((frozen_unitLaw s.rule).kept fun _ h => h).command hc ⟨rfl, rfl, rfl, rfl, hlock⟩ e

/-! ### Fuses -/

theorem byteAt_cons_succ (b : Byte) (l : List Byte) (i : Nat) : byteAt (b :: l) (i + 1) = byteAt l i := rfl

/-- Programming clears no bit (R179). -/
theorem addBits_gains (j : Nat) : ∀ (l : List Byte) (k : Nat) (d : List Byte) (i : Nat),
    (byteAt l i).getLsbD j = true → (byteAt (addBits l k d) i).getLsbD j = true
  | [], _, _, _, h => h
  | b :: l, 0, [], _, h => h
  | b :: l, 0, x :: d, 0, h => by
    simp only [addBits, byteAt, List.getD_cons_zero, BitVec.getLsbD_or, Bool.or_eq_true] at h ⊢
    exact Or.inl h
  | b :: l, 0, x :: d, i + 1, h => addBits_gains j l 0 d i h
  | b :: l, k + 1, d, 0, h => h
  | b :: l, k + 1, d, i + 1, h => addBits_gains j l k d i h

/-- Every bit programmed in `f` and every lock of it stands in `f'`. -/
def Fuses.Gains (f f' : Fuses) : Prop :=
  (∀ g i j, (byteAt (f.group g) i).getLsbD j = true → (byteAt (f'.group g) i).getLsbD j = true) ∧
  ∀ g, f.locked g = true → f'.locked g = true

namespace Fuses.Gains

variable {f f' : Fuses}

theorem refl (f : Fuses) : f.Gains f := ⟨fun _ _ _ h => h, fun _ h => h⟩

theorem addBits (h : f.Gains f') (g : FuseGroup) (k : Nat) (d : List Byte) :
    f.Gains (f'.setGroup g (addBits (f'.group g) k d)) := by
  refine ⟨fun x i j hb => ?_, fun x hl => ?_⟩
  · have hb' := h.1 x i j hb
    cases g <;> cases x <;> first | exact hb' | exact addBits_gains j _ _ _ _ hb'
  · have hl' := h.2 x hl
    cases g <;> exact hl'

theorem lock (h : f.Gains f') (g : FuseGroup) : f.Gains (f'.lock g) := by
  refine ⟨fun x i j hb => ?_, fun x hl => ?_⟩
  · have hb' := h.1 x i j hb
    cases g <;> exact hb'
  · have hl' := h.2 x hl
    cases g <;> cases x <;> first | exact hl' | rfl

end Fuses.Gains

/-- The fuses have only gained bits since `s`; the working key and enable and the profile in use are those of `s`. -/
def State.FusedSince (s t : State) : Prop :=
  s.fuses.Gains t.fuses ∧ t.control.key = s.control.key ∧ t.control.enable = s.control.enable ∧ t.profile = s.profile

theorem fusedSince_unitLaw (s₀ : State) : UnitLaw s₀.FusedSince where
  frame {s t} h e := by
    simp only [State.units, Prod.mk.injEq] at e
    obtain ⟨-, -, hkey, henable, -, hfuses, hprofile⟩ := e
    obtain ⟨hgain, hk, hen, hp⟩ := h
    exact ⟨hfuses ▸ hgain, hkey.trans hk, henable.trans hen, hprofile.trans hp⟩
  put s n u r h := by simpa [State.FusedSince] using h
  release s n h := h
  reserve s n _ h := h
  latch s n r h := h
  stale s n h := h
  urgent s d h := by simpa [State.FusedSince] using h
  guard s g h := h
  setTiming s t h := by simpa [State.FusedSince] using h
  setRule s a h := by simpa [State.FusedSince] using h
  setDefault s a c h := by simpa [State.FusedSince] using h
  setFence s a c d h := by simpa [State.FusedSince] using h
  setLock s l h := by simpa [State.FusedSince] using h
  setQueue s q m w h := by simpa [State.FusedSince] using h
  fetchCapture s n q m h := by simpa [State.FusedSince] using h
  ackCapture s q n h := by simpa [State.FusedSince] using h
  releaseSlot s n h := by simpa [State.FusedSince] using h
  lockFuse s g h := by
    unfold cmdLockFuse
    split
    case h_1 => exact h
    case h_2 => exact ⟨h.1.lock _, h.2⟩
  addFuses s g k d h := ⟨h.1.addBits g k d, h.2⟩
  subTick s n h := h
  softReset s h := h

/-- Settles O12: that the fuses only gain bits is a law of the units, kept by every command that does not restart the part. -/
theorem fusesOnlyGainBits : Obligations.FusesOnlyGainBits := by
  intro c s t hc e
  have h : s.FusedSince t :=
    ((fusedSince_unitLaw s).kept fun _ h => h).command hc ⟨.refl s.fuses, rfl, rfl, rfl⟩ e
  obtain ⟨⟨hbits, hlocks⟩, hkey, henable, hprofile⟩ := h
  exact ⟨hbits, hlocks, hkey, henable, hprofile⟩

end Sys2Proof.Machine
end

section
/-! SUPPORT. What an effect can do to the staging table (R9 to R55): the changes of one entry, the changes of the table, and for each operation that it makes such changes alone. -/

namespace Sys2Proof.Machine

/-- Which merges (offset and count of bytes) and which fill pages (number and count of bytes) a statement reckons with. -/
structure Bounds where
  merge : Nat → Nat → Prop
  page : Nat → Nat → Prop

/-- The bounds allow the merge of a write. -/
def Bounds.Admits (R : Bounds) (w : WriteReq) : Prop := R.merge w.sectorOff w.bytes.length

/-- A change of one entry that leaves the close queue as it is, at a tick and under timing settings. -/
inductive EntryStep (R : Bounds) (now : Tick) (t : TimingSettings) : Entry → Entry → Prop
  | touch (e : Entry) : EntryStep R now t e (touchEntry now e)
  | mark (d : Sector) (f : Filling) (c : CloseCause) :
      EntryStep R now t (.filling d f) (.filling d { f with closeOnFill := f.closeOnFill.or (some c) })
  | clean (d : Sector) (x : Timers) : hasDirty d = false → EntryStep R now t (.opened d x) (.clean d)
  | merge (off : Nat) (bytes : List (Option Byte)) (e e' : Entry) : R.merge off bytes.length →
      mergeEntry now t off bytes e = some e' → EntryStep R now t e e'
  | store (p : Nat) (bytes : List Byte) (e : Entry) : R.page p bytes.length → EntryStep R now t e (storePage p bytes e)
  | filled (d : Sector) (f : Filling) : EntryStep R now t (.filling d f) (filledEntry d f)
  | idlePending (d : Sector) (f : Filling) : EntryStep R now t (.filling d f)
      (.filling d { f with timers := { f.timers with idle := none }, idlePending := true })
  | agePending (d : Sector) (f : Filling) : EntryStep R now t (.filling d f)
      (.filling d { f with timers := { f.timers with age := none }, agePending := true })
  | progress (d : Sector) (c : CloseCause) (p q : Progress) : EntryStep R now t (.committing d c p) (.committing d c q)
  | committed (d : Sector) (c : CloseCause) (p : Progress) : EntryStep R now t (.committing d c p) (committedEntry now d)
  | faulted (d : Sector) (c : CloseCause) (p : Progress) (k : FaultKind) (page : Option Nat) :
      EntryStep R now t (.committing d c p) (faultedEntry now d k page)

/-- A change of the staging block. -/
inductive TableStep (R : Bounds) (now : Tick) (t : TimingSettings) (g : Staging) : Staging → Prop
  | entry (i : Nat) (e : Entry) : EntryStep R now t (g.entry i) e → TableStep R now t g (g.setEntry i e)
  | close (i : Nat) (d : Sector) (x : Timers) (c : CloseCause) : g.entry i = .opened d x → hasDirty d = true →
      TableStep R now t g { g.setEntry i (.closed d c) with closeQueue := g.closeQueue ++ [i] }
  | retryFault (i : Nat) (d : Sector) (r : FaultRecord) : g.entry i = .faulted d r →
      TableStep R now t g { g.setEntry i (.closed d .retry) with closeQueue := g.closeQueue ++ [i] }
  | discard (i : Nat) (d : Sector) (r : FaultRecord) : g.entry i = .faulted d r → TableStep R now t g (g.setEntry i .free)
  | allocate (i n off : Nat) (bytes : List (Option Byte)) : R.merge off bytes.length → g.find n = none →
      g.place now = some i → TableStep R now t g (g.setEntry i (allocatedEntry now t n off bytes))
  | start (i : Nat) (rest : List Nat) (d : Sector) (c : CloseCause) (p : Progress) : g.committingIndex = none →
      g.closeQueue = i :: rest → g.entry i = .closed d c →
      TableStep R now t g { g.setEntry i (.committing d c p) with closeQueue := rest }
  | skip (i : Nat) (rest : List Nat) (d : Sector) (c : CloseCause) : g.closeQueue = i :: rest → g.entry i = .closed d c →
      hasDirty d = false → TableStep R now t g { g.setEntry i (uncommittedEntry now d) with closeQueue := rest }
  | drop (i : Nat) (rest : List Nat) : g.closeQueue = i :: rest → (∀ d c, g.entry i ≠ .closed d c) →
      TableStep R now t g { g with closeQueue := rest }
  | count (n : Nat) : TableStep R now t g { g with retry := n }
  | reset : TableStep R now t g Staging.initial

/-- A property of the staging block that each of its changes keeps, is kept by any number of them. -/
theorem TableStep.keeps {R : Bounds} {now : Tick} {t : TimingSettings} {T : Staging → Prop}
    (h : ∀ g g', T g → TableStep R now t g g' → T g') {g g' : Staging}
    (m : Relation.ReflTransGen (TableStep R now t) g g') (hg : T g) : T g' := by
  induction m with
  | refl => exact hg
  | tail _ hs ih => exact h _ _ ih hs

/-! ### Closes -/

theorem Staging.setEntry_self (g : Staging) (i : Nat) : g.setEntry i (g.entry i) = g := by
  have h : g.entries.set i (g.entry i) = g.entries := by
    by_cases hi : i < g.entries.length
    case pos => rw [Staging.entry, List.getElem?_eq_getElem hi, Option.getD_some, List.set_getElem_self]
    case neg => rw [List.set_eq_of_length_le (Nat.le_of_not_lt hi)]
  rw [Staging.setEntry, h]

section
variable {R : Bounds} {now : Tick} {t : TimingSettings}

theorem Staging.close_moves (g : Staging) (c : CloseCause) (i : Nat) :
    Relation.ReflTransGen (TableStep R now t) g (g.close c i) := by
  have same (hc : closedEntry c (g.entry i) = g.entry i) (hq : closeEffect (g.entry i) ≠ .madeClosed) :
      Relation.ReflTransGen (TableStep R now t) g (g.close c i) := by
    have : g.close c i = g := by
      rw [Staging.close, hc, if_neg hq]
      exact g.setEntry_self i
    rw [this]
  cases e : g.entry i with
  | opened d x =>
    refine .single ?_
    cases hd : hasDirty d with
    | true =>
      have hc : g.close c i = { g.setEntry i (.closed d c) with closeQueue := g.closeQueue ++ [i] } := by
        simp [Staging.close, Staging.setEntry, e, closedEntry, closeEffect, hd]
      exact hc ▸ .close i d x c e hd
    | false =>
      have hc : g.close c i = g.setEntry i (.clean d) := by
        simp [Staging.close, Staging.setEntry, e, closedEntry, closeEffect, hd]
      exact hc ▸ .entry i _ (e ▸ .clean d x hd)
  | filling d f =>
    refine .single ?_
    have hc : g.close c i = g.setEntry i (.filling d { f with closeOnFill := f.closeOnFill.or (some c) }) := by
      simp only [Staging.close, Staging.setEntry, e, closedEntry, if_neg (closeEffect_filling_ne_madeClosed d f)]
    exact hc ▸ .entry i _ (e ▸ .mark d f c)
  | free => exact same (by rw [e]; rfl) (by rw [e]; nofun)
  | closed => exact same (by rw [e]; rfl) (by rw [e]; nofun)
  | committing => exact same (by rw [e]; rfl) (by rw [e]; nofun)
  | clean => exact same (by rw [e]; rfl) (by rw [e]; nofun)
  | faulted => exact same (by rw [e]; rfl) (by rw [e]; nofun)

theorem Staging.closeAll_moves (g : Staging) (c : CloseCause) :
    Relation.ReflTransGen (TableStep R now t) g (g.closeAll c) := by
  unfold Staging.closeAll
  induction List.range Config.entryCount generalizing g with
  | nil => exact .refl
  | cons i r ih => exact (g.close_moves c i).trans (ih _)

end

/-! ### The way a part of the state takes -/

/-- The part `f` of the state goes from that of `s` to that of `t` by steps `r`, at the tick and under the settings of `s`. -/
def Leads {α : Type} (r : Tick → TimingSettings → α → α → Prop) (f : State → α) (s t : State) : Prop :=
  Relation.ReflTransGen (r s.now s.time.timing) (f s) (f t)

/-- And the timebase stays. -/
structure Along {α : Type} (r : Tick → TimingSettings → α → α → Prop) (f : State → α) (s t : State) : Prop where
  time : t.time = s.time
  path : Leads r f s t

section
variable {α : Type} {r : Tick → TimingSettings → α → α → Prop} {f : State → α} {s t u : State}

theorem Leads.of_eq (h : f t = f s) : Leads r f s t := by
  unfold Leads
  rw [h]

theorem Along.of_eq (ht : t.time = s.time) (h : f t = f s) : Along r f s t := ⟨ht, .of_eq h⟩

theorem Along.refl (s : State) : Along r f s s := .of_eq rfl rfl

theorem Along.trans_path (h : Along r f s t) (h' : Leads r f t u) : Leads r f s u := by
  have hp := h.path
  unfold Leads State.now at h' hp ⊢
  rw [h.time] at h'
  exact hp.trans h'

theorem Leads.after (h : Leads r f t u) (ht : t.time = s.time) (hg : f t = f s) : Leads r f s u :=
  (Along.of_eq ht hg).trans_path h

theorem Along.trans (h : Along r f s t) (h' : Along r f t u) : Along r f s u :=
  ⟨h'.time.trans h.time, h.trans_path h'.path⟩

/-- What follows leaves the timebase and the part as they are. -/
theorem Along.then (h : Along r f s t) (ht : u.time = t.time) (hg : f u = f t) : Along r f s u :=
  h.trans (.of_eq ht hg)

/-- What came before left the timebase and the part as they were. -/
theorem Along.after (h : Along r f t u) (ht : t.time = s.time) (hg : f t = f s) : Along r f s u :=
  (Along.of_eq ht hg).trans h

theorem Along.foldl {β : Type} {g : State → β → State} (hf : ∀ x a, Along r f x (g x a)) :
    ∀ (l : List β) (s : State), Along r f s (l.foldl g s)
  | [], s => .refl s
  | a :: l, s => (hf s a).trans (Along.foldl hf l (g s a))

end

/-- The staging block of `t` comes from that of `s` by changes of it. -/
abbrev State.Path (R : Bounds) : State → State → Prop := Leads (TableStep R) State.staging

/-- And the timebase stays. -/
abbrev State.Moves (R : Bounds) : State → State → Prop := Along (TableStep R) State.staging

namespace State

variable {R : Bounds} {s t u : State}

theorem Moves.table {g : Staging} (h : Relation.ReflTransGen (TableStep R s.now s.time.timing) s.staging g) :
    s.Moves R (s.withStaging g) := ⟨rfl, h⟩

theorem Moves.step {g : Staging} (h : TableStep R s.now s.time.timing s.staging g) : s.Moves R (s.withStaging g) :=
  .table (.single h)

theorem Moves.close (s : State) (c : CloseCause) (i : Nat) : s.Moves R (s.withStaging (s.staging.close c i)) :=
  ⟨rfl, s.staging.close_moves c i⟩

theorem Moves.entry (s : State) (i : Nat) (e : Entry) (h : EntryStep R s.now s.time.timing (s.staging.entry i) e) :
    s.Moves R (s.withStaging (s.staging.setEntry i e)) := .step (.entry i e h)

/-! ### Reads -/

theorem hitRead_moves (s : State) (tag i : Nat) (d : Sector) (r : ReadReq) : s.Moves R (s.hitRead tag i d r) :=
  (Moves.entry s i _ (.touch _)).then rfl rfl

theorem resolveOverlay_moves (s : State) (tag : Nat) : s.Moves R (s.resolveOverlay tag) := by
  cases hr : s.readOf tag with
  | none => simpa [resolveOverlay, hr] using Along.refl s
  | some r =>
    obtain ⟨x, hx⟩ := Continues.total s tag r.req
    rw [hx.resolveOverlay_eq hr]
    cases hx with
    | hit i d => exact s.hitRead_moves tag i d r.req
    | wakes => exact .of_eq (by simp) (by simp)
    | miss => exact .of_eq (by simp) (by simp)
    | _ => exact .of_eq rfl rfl

theorem resolveHazard_moves (s : State) (tag : Nat) : s.Moves R (s.resolveHazard tag) := by
  unfold resolveHazard
  split
  case h_1 => exact .refl s
  case h_2 =>
    split
    case isTrue => exact .of_eq rfl rfl
    case isFalse => exact s.resolveOverlay_moves tag

theorem resolveEntry_moves (s : State) (tag : Nat) (r : ReadReq) {x : State} (h : s.Moves R x) :
    s.Moves R (s.resolveEntry tag r x) := by
  unfold resolveEntry
  split
  case h_1 => exact h
  case h_2 i _ =>
    split
    case h_1 => exact h
    case h_2 => exact .of_eq rfl rfl
    all_goals exact s.hitRead_moves tag i _ r

theorem missComplete_moves (s : State) (tag : Nat) (bytes : List Byte) : s.Moves R (s.missComplete tag bytes) := by
  unfold missComplete
  split
  case h_1 => exact .refl s
  case h_2 =>
    split_ifs
    case pos => exact .of_eq rfl rfl
    case neg =>
      split
      case h_1 => exact .of_eq rfl rfl
      case h_2 => exact s.resolveEntry_moves tag _ (.of_eq rfl rfl)

theorem resolveAfresh_moves (s : State) (p : Read → Bool) : s.Moves R (s.resolveAfresh p) :=
  Along.foldl (fun x => x.resolveHazard_moves) _ s

theorem endOverlay_moves (s : State) : s.Moves R s.endOverlay := by
  unfold endOverlay
  split
  case h_1 => exact .refl s
  case h_2 => exact Along.after (resolveAfresh_moves _ _) rfl rfl

theorem overlayWritten_moves (s : State) (line : Addr) : s.Moves R (s.overlayWritten line) := by
  unfold overlayWritten
  split
  case h_1 => exact .refl s
  case h_2 =>
    split
    case isTrue => exact s.endOverlay_moves
    case isFalse => exact .refl s

theorem overlayExpired_moves (s : State) : s.Moves R s.overlayExpired := by
  unfold overlayExpired
  split
  case h_1 =>
    split
    case isTrue => exact s.endOverlay_moves
    case isFalse => exact .refl s
  case h_2 => exact .refl s

theorem releaseHazards_moves (s : State) : s.Moves R s.releaseHazards :=
  Along.foldl (fun x => x.resolveOverlay_moves) _ s

theorem serveFilled_moves (s : State) (i : Nat) (d : Sector) : s.Moves R (s.serveFilled i d) :=
  Along.foldl (fun x (r : Read) => x.hitRead_moves r.tag i d r.req) _ s

theorem decideRead_moves (s : State) (tag : Nat) (req : ReadReq) : s.Moves R (s.decideRead tag req) := by
  simp only [decideRead]
  split
  case isTrue => exact .of_eq (by simp) (by simp)
  case isFalse => exact Along.after (resolveHazard_moves _ tag) (by simp) (by simp)

theorem acceptRead_moves (s : State) (req : ReadReq) : s.Moves R (s.acceptRead req) := by
  simp only [acceptRead]
  split_ifs
  · exact .of_eq rfl rfl
  · exact Along.after (resolveHazard_moves _ _) rfl rfl
  · exact .of_eq rfl rfl
  · exact s.decideRead_moves _ req

theorem acceptNextRead_moves (s : State) : s.Moves R s.acceptNextRead := by
  unfold acceptNextRead
  split
  case h_1 => exact .refl s
  case h_2 => exact Along.after (acceptRead_moves _ _) rfl rfl

/-! ### Writes -/

theorem answerWrite_moves (s : State) (w : WriteInProgress) (work : Image) : s.Moves R (s.answerWrite w work) := by
  simp only [answerWrite]
  exact Along.after (overlayWritten_moves _ _) (by simp) (by simp)

theorem closeMerged_moves (s : State) (i : Nat) : s.Moves R (s.closeMerged i) := by
  unfold closeMerged
  split
  case h_1 => exact .close s _ i
  case h_2 => exact .close s _ i
  case h_3 => exact .refl s

theorem landWrite_moves (s : State) (w : WriteInProgress) (i : Nat) (e : Entry)
    (h : TableStep R s.now s.time.timing s.staging (s.staging.setEntry i e)) : s.Moves R (s.landWrite w i e) :=
  ((Moves.step h).trans (closeMerged_moves _ i)).trans (answerWrite_moves _ w _)

theorem stageWrite_moves (s : State) (w : WriteInProgress) (hw : R.Admits w.req) : s.Moves R (s.stageWrite w) := by
  obtain ⟨x, hx⟩ := Stages.total s w
  rw [hx.stageWrite_eq]
  cases hx with
  | merge i e _ he => exact s.landWrite_moves w i e (.entry i e (.merge _ _ _ e hw he))
  | committing => exact .of_eq rfl rfl
  | faulted => exact .of_eq (by simp) (by simp)
  | allocate i hn hi =>
    exact Along.after (landWrite_moves _ w i _ (.allocate i _ _ _ hw hn hi)) rfl rfl
  | pressure i => exact (Moves.close s _ i).then rfl rfl
  | noEntry => exact .of_eq rfl rfl

theorem fenceStage_moves (s : State) (w : WriteInProgress) (hw : R.Admits w.req) : s.Moves R (s.fenceStage w) := by
  obtain ⟨x, hx⟩ := Decides.total s w
  have hd : s.Moves R (s.decided w) := .of_eq (by simp [decided]) (by simp [decided])
  rw [hx.fenceStage_eq]
  cases hx with
  | fence => exact hd.then (by simp) (by simp)
  | denied => exact hd.then (by simp) (by simp)
  | media => exact hd.then (by simp) (by simp)
  | noSpace => exact hd.then rfl rfl
  | strict q x _ _ _ _ hx =>
    rw [← hx.stageWrite_eq]
    exact (hd.then (u := (s.decided w).reserve q) rfl rfl).trans (stageWrite_moves _ _ hw)
  | plain x _ _ hx => exact hx.stageWrite_eq ▸ hd.trans (stageWrite_moves _ _ hw)

theorem powerStage_moves (s : State) (w : WriteInProgress) (hw : R.Admits w.req) : s.Moves R (s.powerStage w) := by
  obtain ⟨x, hx⟩ := Admits.total s w
  rw [hx.powerStage_eq]
  cases hx with
  | run x _ hx => exact hx.fenceStage_eq ▸ s.fenceStage_moves w hw
  | drain x _ _ hx =>
    exact hx.fenceStage_eq ▸ Along.after (fenceStage_moves s.withdrawSleep w hw) (by simp) (by simp)
  | abort x _ _ hx =>
    exact hx.fenceStage_eq ▸ Along.after (fenceStage_moves (s.abandonDrain .activity) w hw) (by simp) (by simp)
  | wakes => exact .of_eq (by simp [heldFor]) (by simp [heldFor])
  | waits => exact .of_eq rfl rfl
  | refused => exact .of_eq (by simp) (by simp)
  | unconfigured => exact .of_eq (by simp) (by simp)

theorem releaseWrite_moves (s : State) (hw : ∀ w, s.port.write = some w → R.Admits w.req) : s.Moves R s.releaseWrite := by
  unfold releaseWrite
  split
  case h_1 => exact .refl s
  case h_2 w e =>
    split
    · exact s.fenceStage_moves w (hw w e)
    · exact s.stageWrite_moves w (hw w e)
    · exact s.stageWrite_moves w (hw w e)
    · exact .refl s

/-! ### Grants -/

theorem firstStep_eq_none {d : Sector} {c : CloseCause} (h : firstStep (planOf d c) (pageList d (planOf d c)) = none) :
    hasDirty d = false := by
  cases hp : planOf d c with
  | eraseThenProgram => simp [hp, firstStep] at h
  | programOnly =>
    have hnil : dirtyPages d = [] := by
      rw [hp, pageList] at h
      cases hl : dirtyPages d with
      | nil => rfl
      | cons p r => rw [hl] at h; cases h
    simp [hasDirty, hnil]

theorem issueStep_moves (s : State) (d : Sector) (step : CommitStep) : s.Moves R (s.issueStep d step) :=
  .of_eq (by simp) (by simp)

theorem startCommit_moves (s : State) (i : Nat) (rest : List Nat) (hc : s.staging.committingIndex = none)
    (hq : s.staging.closeQueue = i :: rest) : s.Moves R (s.startCommit i rest) := by
  unfold startCommit
  split
  case h_1 d c he =>
    simp only
    split
    case h_1 step hs =>
      exact (Moves.step (.start i rest d c _ hc hq he)).trans (issueStep_moves _ d step)
    case h_2 hs => exact .step (.skip i rest d c hq he (firstStep_eq_none hs))
  case h_2 hn => exact .step (.drop i rest hq hn)

theorem grantCommit_moves (s : State) : s.Moves R s.grantCommit := by
  have hz : s.Moves R s.zeroShare := .of_eq rfl rfl
  simp only [grantCommit]
  split
  case h_1 =>
    split
    case h_1 => exact hz.then (by simp) (by simp)
    case h_2 => exact hz
  case h_2 hc =>
    split
    case h_1 => exact hz
    case h_2 i rest hq => exact hz.trans (startCommit_moves _ i rest hc hq)

theorem grantNext_moves (s : State) : s.Moves R s.grantNext := by
  unfold grantNext
  split_ifs
  · exact s.grantCommit_moves
  all_goals
    split
    · exact .of_eq (by simp) (by simp)
    · exact .of_eq (by simp) (by simp)
    · first | exact s.grantCommit_moves | exact .of_eq (by simp) (by simp)

/-! ### Ends of operations -/

theorem countRetry_moves (s : State) : s.Moves R s.countRetry := by
  have hc : s.Moves R (s.withStaging { s.staging with retry := s.staging.retry + 1 }) := .step (.count _)
  simp only [countRetry]
  split_ifs
  · exact hc.then rfl rfl
  · exact hc
  · exact .refl s

theorem faultCommit_moves {i : Nat} {d : Sector} {c : CloseCause} {p : Progress}
    (he : s.staging.entry i = .committing d c p) (k : FaultKind) (page : Option Nat) :
    s.Moves R (s.faultCommit i d k page) :=
  (Moves.entry s i _ (he ▸ .faulted d c p k page)).then rfl rfl

theorem retryStep_moves {i : Nat} {d : Sector} {c : CloseCause} {p : Progress}
    (he : s.staging.entry i = .committing d c p) (step : CommitStep) : s.Moves R (s.retryStep i d c p step) :=
  (Moves.entry s i _ (he ▸ .progress d c p _)).trans (countRetry_moves _)

theorem nextPage_step (now : Tick) (t : TimingSettings) (d : Sector) (c : CloseCause) (p : Progress) (page : Nat) :
    EntryStep R now t (.committing d c p) (nextPage now d c p page) := by
  unfold nextPage
  split
  case h_1 => exact .committed d c p
  case h_2 => exact .progress d c p _

theorem stepSucceeded_step (now : Tick) (t : TimingSettings) (verify : Bool) (d : Sector) (c : CloseCause) (p : Progress)
    (op : OpStep) : EntryStep R now t (.committing d c p) (stepSucceeded now verify d c p op) := by
  cases op with
  | erase =>
    simp only [stepSucceeded]
    split
    case h_1 => exact .committed d c p
    case h_2 => exact .progress d c p _
  | program q =>
    simp only [stepSucceeded]
    split
    case isTrue => exact .progress d c p _
    case isFalse => exact nextPage_step now t d c p q

theorem stepReported_moves (s : State) (op : OpStep) (fail : Bool) : s.Moves R (s.stepReported op fail) := by
  unfold stepReported
  split
  case isTrue => exact .refl s
  case isFalse =>
    split
    case h_1 => exact .refl s
    case h_2 i _ =>
      split
      case h_1 d c p he =>
        split_ifs
        · exact retryStep_moves he _
        · exact faultCommit_moves he _ _
        · exact .entry s i _ (he ▸ stepSucceeded_step ..)
      case h_2 => exact .refl s

theorem verifyReported_moves (s : State) (page : Nat) (bytes : List Byte) : s.Moves R (s.verifyReported page bytes) := by
  unfold verifyReported
  split
  case isTrue => exact .refl s
  case isFalse =>
    split
    case h_1 => exact .refl s
    case h_2 i _ =>
      split
      case h_1 d c p he =>
        split_ifs
        · exact .entry s i _ (he ▸ nextPage_step ..)
        · exact retryStep_moves he _
        · exact faultCommit_moves he _ _
      case h_2 => exact .refl s

theorem timeoutReported_moves (s : State) (op : OpStep) : s.Moves R (s.timeoutReported op) := by
  unfold timeoutReported
  split
  case isTrue => exact .refl s
  case isFalse =>
    split
    case h_1 => exact .refl s
    case h_2 i _ =>
      split
      case h_1 d c p he => exact faultCommit_moves he _ _
      case h_2 => exact .refl s

theorem completeOperation_moves (s : State) (op : FlashOp) (fail : Bool) : s.Moves R (s.completeOperation op fail) :=
  Along.after (stepReported_moves s.endOperation op.step fail) rfl rfl

theorem timeoutOperation_moves (s : State) (op : FlashOp) : s.Moves R (s.timeoutOperation op) := by
  have hq : s.Moves R (s.withSeq { s.seq with st := .stalled, deferred := none }) := .of_eq rfl rfl
  exact (hq.trans (timeoutReported_moves _ op.step)).then (by simp [timeoutOperation]) (by simp [timeoutOperation])

theorem closeFilled_moves (g : Staging) (f : Filling) (i : Nat) {now : Tick} {t : TimingSettings} :
    Relation.ReflTransGen (TableStep R now t) g (g.closeFilled f i) := by
  unfold Staging.closeFilled Staging.takePending
  split
  case h_1 => exact g.close_moves _ i
  case h_2 =>
    split_ifs
    · exact g.close_moves _ i
    · exact g.close_moves _ i
    · exact .refl

theorem completeFill_moves (s : State) (i : Nat) : s.Moves R (s.completeFill i) := by
  unfold completeFill
  split
  case h_1 d f he =>
    have ho : s.Moves R (s.withStaging (s.staging.setEntry i (filledEntry d f))) := .entry s i _ (he ▸ .filled d f)
    exact (ho.trans (Moves.table (closeFilled_moves _ f i))).trans (serveFilled_moves _ i _)
  case h_2 => exact .refl s

theorem fillReported_moves (s : State) (sector page : Nat) (bytes : List Byte) (hp : R.page page bytes.length) :
    s.Moves R (s.fillReported sector page bytes) := by
  unfold fillReported
  split
  case isTrue => exact .refl s
  case isFalse =>
    split
    case h_1 => exact .refl s
    case h_2 i _ =>
      have hs := Moves.entry (R := R) s i _ (.store page bytes _ hp)
      simp only
      split
      case isTrue => exact hs.trans (completeFill_moves _ i)
      case isFalse => exact hs

theorem serveNext_moves (s : State) (op : FlashOp) (service : List Nat) : s.Moves R (s.serveNext op service) :=
  .of_eq (by simp) (by simp)

theorem completeRead_moves (s : State) (bytes : List Byte)
    (hp : ∀ p, s.seq.st.fillingPage = some p → bytes.length = Config.pageBytes → R.page p bytes.length) :
    s.Moves R (s.completeRead bytes) := by
  unfold completeRead
  split
  case h_1 =>
    split
    case isTrue => exact Along.after (missComplete_moves _ _ _) rfl rfl
    case isFalse => exact .refl s
  case h_2 p e =>
    split
    case isTrue hl => exact Along.after (fillReported_moves _ _ _ _ (hp p (by rw [e]; rfl) hl)) rfl rfl
    case isFalse => exact .refl s
  case h_3 =>
    split
    case isTrue => exact Along.after (verifyReported_moves _ _ _) rfl rfl
    case isFalse => exact .refl s
  case h_4 =>
    split
    case isTrue => exact (missComplete_moves _ _ _).trans (serveNext_moves _ _ _)
    case isFalse => exact .refl s
  case h_5 => exact .refl s

theorem pollStatus_moves (s : State) (st : Byte) : s.Moves R (s.pollStatus st) := by
  have hi : s.Moves R s.issueStatus := .of_eq rfl rfl
  unfold pollStatus
  split
  case h_1 =>
    split
    case h_1 => exact hi.trans (completeOperation_moves _ _ _)
    case h_2 => exact hi
    case h_3 => exact hi
  case h_2 =>
    split
    case h_1 => exact hi.trans (completeOperation_moves _ _ _)
    case h_2 => exact hi.then (by simp) (by simp)
    case h_3 => exact hi
  case h_3 =>
    split
    case h_1 => exact hi.trans (completeOperation_moves _ _ _)
    case h_2 => exact hi
    case h_3 => exact hi.then (by simp) (by simp)
  case h_4 => exact .refl s

theorem suspendLimit_moves (s : State) (st : Byte) : s.Moves R (s.suspendLimit st) := by
  have hi : s.Moves R s.issueStatus := .of_eq rfl rfl
  unfold suspendLimit
  split
  case h_1 =>
    simp only
    split_ifs
    · exact hi.trans (completeOperation_moves _ _ _)
    · exact hi.trans (timeoutOperation_moves _ _)
    · exact .refl s
  case h_2 => exact .refl s

theorem timeLimit_moves (s : State) : s.Moves R s.timeLimit := by
  unfold timeLimit
  split
  case h_1 =>
    split
    case isTrue => exact s.timeoutOperation_moves _
    case isFalse => exact .refl s
  case h_2 => exact .refl s

/-! ### Power warning and start-up -/

/-- A power warning closes every entry, or leaves the table as it is (R148, R149). -/
theorem takeAssertion_staging (s : State) :
    s.takeAssertion.staging = s.staging ∨ s.takeAssertion.staging = s.staging.closeAll .emergency := by
  unfold takeAssertion
  split
  case h_3 => exact Or.inr (by simp [enterEmergency])
  case h_4 => exact Or.inr (by simp [enterEmergency])
  case h_5 => exact Or.inr (by simp [enterEmergency])
  all_goals exact Or.inl (by simp)

theorem takeAssertion_path (s : State) {now : Tick} {t : TimingSettings} :
    Relation.ReflTransGen (TableStep R now t) s.staging s.takeAssertion.staging := by
  obtain h | h := s.takeAssertion_staging
  case inl => rw [h]
  case inr => exact h ▸ s.staging.closeAll_moves .emergency

theorem takeAssertion_moves (s : State) : s.Moves R s.takeAssertion := ⟨by simp, s.takeAssertion_path⟩

theorem pwrwarnHigh_moves (s : State) : s.Moves R s.pwrwarnHigh := by
  unfold pwrwarnHigh
  split
  case isTrue => exact .refl s
  case isFalse => exact Along.after (takeAssertion_moves _) rfl rfl

theorem endStartup_moves (s : State) (x : SeqState) : s.Moves R (s.endStartup x) := by
  have hr : s.Moves R (((s.setSeqSt x).setPowerSt .run).setLanes true) := .of_eq rfl rfl
  simp only [endStartup]
  split
  case isTrue => exact hr.trans (takeAssertion_moves _)
  case isFalse => exact hr

theorem firstStatus_moves (s : State) (st : Byte) : s.Moves R (s.firstStatus st) := by
  have hi : s.Moves R s.issueStatus := .of_eq rfl rfl
  simp only [firstStatus]
  split
  case h_1 => exact hi.trans (endStartup_moves _ _)
  case h_2 => exact hi.then rfl rfl
  case h_3 => exact hi.then (by simp) (by simp)

theorem wakeEndDue_moves (s : State) (st : Byte) : s.Moves R (s.wakeEndDue st) := by
  unfold wakeEndDue wakeEnded
  split
  case h_1 =>
    split_ifs
    · exact s.firstStatus_moves st
    · exact .of_eq (by simp) (by simp)
    · exact .refl s
  case h_2 => exact .refl s

theorem tickPoll_moves (s : State) (st : Byte) : s.Moves R (s.tickPoll st) := by
  have hi : s.Moves R s.issueStatus := .of_eq rfl rfl
  unfold tickPoll
  split
  case h_1 => exact .of_eq (by simp) (by simp)
  case h_2 =>
    simp only [startupPoll]
    split
    case h_1 => exact hi.trans (endStartup_moves _ _)
    case h_2 => exact hi
    case h_3 =>
      split
      case isTrue => exact hi
      case isFalse => exact hi.then (by simp) (by simp)
  case h_3 => exact .refl s

theorem startupLimitDue_moves (s : State) : s.Moves R s.startupLimitDue := by
  unfold startupLimitDue
  split
  case h_1 =>
    split
    case isTrue => exact Along.after (endStartup_moves (s.raise .flashStall) .stalled) rfl rfl
    case isFalse => exact .refl s
  case h_2 => exact .refl s

/-- A soft reset leaves the table empty before a power warning closes what it finds (R176). -/
theorem softResetEffect_path (s : State) : s.Path R s.softResetEffect := by
  have hr : Relation.ReflTransGen (TableStep R s.now s.time.timing) s.staging Staging.initial := .single .reset
  show Relation.ReflTransGen _ _ _
  simp only [softResetEffect]
  split_ifs
  · exact hr.trans (takeAssertion_path (s.answerControl.softResetValues.raise .flashStall))
  · exact hr
  · exact hr.trans (takeAssertion_path s.answerControl.softResetValues)
  · exact hr

/-! ### Timers of an entry -/

theorem idleExpired_moves (s : State) (i : Nat) : s.Moves R (s.idleExpired i) := by
  unfold idleExpired
  split
  case isTrue =>
    unfold Staging.expireIdle
    split
    case h_1 d f he => exact .entry s i _ (he ▸ .idlePending d f)
    case h_2 => exact .close s .idle i
    case h_3 => exact .of_eq rfl rfl
  case isFalse => exact .refl s

theorem ageExpired_moves (s : State) (i : Nat) : s.Moves R (s.ageExpired i) := by
  unfold ageExpired
  split
  case isTrue =>
    unfold Staging.expireAge
    split
    case h_1 d f he => exact .entry s i _ (he ▸ .agePending d f)
    case h_2 => exact .close s .age i
    case h_3 => exact .of_eq rfl rfl
  case isFalse => exact .refl s

/-! ### Control records -/

theorem cmdReadStatus_path (s : State) (room : Nat) (c : Byte) : s.Path R (cmdReadStatus room c s).1 := by
  simp only [cmdReadStatus]
  split
  case h_1 => exact .of_eq rfl
  case h_2 =>
    split
    case isTrue => exact .single (.count 0)
    case isFalse => exact .of_eq rfl

theorem cmdFlush_path (s : State) (scope : Byte) (sector : Half) : s.Path R (cmdFlush scope sector s).1 := by
  unfold cmdFlush
  split_ifs
  · exact s.staging.closeAll_moves .flush
  · exact .of_eq rfl
  · split
    · exact .of_eq rfl
    · exact s.staging.close_moves .flush _
  · exact .of_eq rfl

theorem cmdFaultRetry_path (s : State) (sector : Half) : s.Path R (cmdFaultRetry sector s).1 := by
  unfold cmdFaultRetry
  split_ifs
  · exact .of_eq rfl
  · exact .of_eq rfl
  · split
    · exact .of_eq rfl
    · split
      case h_1 d r he => exact .single (.retryFault _ d r he)
      case h_2 => exact .of_eq rfl

theorem cmdFaultDiscard_path (s : State) (sector : Half) : s.Path R (cmdFaultDiscard sector s).1 := by
  unfold cmdFaultDiscard
  split_ifs
  · exact .of_eq rfl
  · split
    · exact .of_eq rfl
    · split
      case h_1 d r he => exact ((Moves.step (.discard _ d r he)).trans (resolveAfresh_moves _ _)).path
      case h_2 => exact .of_eq rfl

theorem cmdSleep_path (s : State) : s.Path R (cmdSleep s).1 := by
  unfold cmdSleep
  split
  case isTrue => exact s.staging.closeAll_moves .drain
  case isFalse => exact .of_eq rfl

theorem execCode_path (s : State) (room : Nat) (code : Byte) (a : List Byte) : s.Path R (execCode room code a s).1 := by
  unfold execCode
  split
  case h_2 => exact s.cmdReadStatus_path room _
  case h_17 => exact s.cmdFlush_path _ _
  case h_19 => exact s.cmdFaultRetry_path _
  case h_20 => exact s.cmdFaultDiscard_path _
  case h_22 => exact s.cmdSleep_path
  all_goals exact .of_eq (by simp)

theorem consumeRecord_path (s : State) (w : WriteInProgress) (bs : List Byte) : s.Path R (s.consumeRecord w bs) := by
  have he : s.Moves R ((s.setWrite (some { w with hold := none, stage := .control })).endOverlay) :=
    Along.after (endOverlay_moves _) rfl rfl
  simp only [consumeRecord]
  refine he.trans_path ?_
  have same (code : Byte) (r : CommandResult) : (finishCommand code r).staging = r.1.staging := by simp
  unfold Leads
  rw [same]
  exact execCode_path _ _ _ _

theorem recognise_path (s : State) (w : WriteInProgress) (hw : R.Admits w.req) : s.Path R (s.recognise w) := by
  unfold recognise
  split
  case isTrue =>
    split
    case h_1 =>
      split
      case isTrue => exact s.consumeRecord_path w _
      case isFalse => exact (Along.after (powerStage_moves (s.raise .controlCheckFailed) w hw) rfl rfl).path
    case h_2 => exact (s.powerStage_moves w hw).path
  case isFalse => exact (s.powerStage_moves w hw).path

theorem acceptWrite_path (s : State) (req : WriteReq)
    (hw : crossesLine req.offset req.bytes.length = false → R.Admits req) : s.Path R (s.acceptWrite req) := by
  simp only [acceptWrite]
  split
  case isTrue => exact .of_eq (by simp)
  case isFalse hc =>
    have hline : crossesLine req.offset req.bytes.length = false := by
      simp only [Bool.or_eq_true, not_or, Bool.not_eq_true] at hc
      exact hc.1.1
    exact Leads.after (recognise_path _ _ (hw hline)) rfl rfl

theorem acceptNextWrite_path (s : State)
    (hw : ∀ req ∈ s.port.waitWrites, crossesLine req.offset req.bytes.length = false → R.Admits req) :
    s.Path R s.acceptNextWrite := by
  unfold acceptNextWrite
  split
  case h_1 => exact .of_eq rfl
  case h_2 req rest e =>
    exact Leads.after (acceptWrite_path _ req (hw req (e ▸ List.mem_cons_self))) rfl rfl

end State

end Sys2Proof.Machine
end

section
/-! SUPPORT. The frame of the operations that change the stages of reads: all else of the port, and which reads the queue holds, stays. -/

namespace Sys2Proof.Machine

/-- What of a read its stage does not touch. -/
def Read.key (r : Read) : Nat × ReadReq × Option Decision := (r.tag, r.req, r.decision)

namespace State

variable (s : State)

/-- The port but for the stages of the reads in the queue. -/
def lanes : List (Nat × ReadReq × Option Decision) × Option WriteInProgress × Option LastRefusal × Bool × List ReadReq ×
    List WriteReq :=
  (s.port.reads.map Read.key, s.port.write, s.port.lastRefusal, s.port.lanesOpen, s.port.waitReads, s.port.waitWrites)

variable {s} in
theorem lanes_of_port {t : State} (h : t.port = s.port) : t.lanes = s.lanes := by
  unfold lanes
  rw [h]

/-- A change of reads that leaves what is no stage leaves the lanes. -/
theorem lanes_setReads {l : List Read} (h : l.map Read.key = s.port.reads.map Read.key) : (s.setReads l).lanes = s.lanes := by
  simp only [lanes, setReads_port, h]

@[simp] theorem setStage_lanes (t : Nat) (x : ReadStage) : (s.setStage t x).lanes = s.lanes := by
  refine s.lanes_setReads ?_
  rw [List.map_map]
  refine List.map_congr_left fun r _ => ?_
  simp only [Function.comp]
  split <;> rfl

@[simp] theorem updateResults_lanes (w : WriteReq) : (s.updateResults w).lanes = s.lanes := by
  refine s.lanes_setReads ?_
  rw [List.map_map]
  refine List.map_congr_left fun r _ => ?_
  simp only [Function.comp, updateResult]
  split
  case h_1 => split <;> rfl
  case h_2 => rfl

@[simp] theorem refuseRead_lanes (t : Nat) (x : RefusalReason) : (s.refuseRead t x).lanes = s.lanes := s.setStage_lanes t _

@[simp] theorem joinMiss_lanes (t : Nat) : (s.joinMiss t).lanes = s.lanes :=
  (lanes_of_port (by simp [joinMiss])).trans (s.setStage_lanes t .miss)

@[simp] theorem hitRead_lanes (t i : Nat) (d : Sector) (r : ReadReq) : (s.hitRead t i d r).lanes = s.lanes :=
  setStage_lanes (s.withStaging _) t _

@[simp] theorem resolveOverlay_lanes (t : Nat) : (s.resolveOverlay t).lanes = s.lanes := by
  cases hr : s.readOf t with
  | none => simp [resolveOverlay, hr]
  | some r =>
    obtain ⟨x, hx⟩ := Continues.total s t r.req
    rw [hx.resolveOverlay_eq hr]
    cases hx with
    | hit i d => exact s.hitRead_lanes t i d r.req
    | wakes => exact (lanes_of_port (by simp)).trans (s.setStage_lanes t .miss)
    | miss => exact (lanes_of_port (by simp)).trans (s.setStage_lanes t .miss)
    | _ => exact s.setStage_lanes t _

@[simp] theorem resolveHazard_lanes (t : Nat) : (s.resolveHazard t).lanes = s.lanes := by
  unfold resolveHazard
  split
  case h_1 => rfl
  case h_2 => split <;> simp

theorem foldl_lanes {α : Type} {f : State → α → State} (hf : ∀ x a, (f x a).lanes = x.lanes) (l : List α) :
    (l.foldl f s).lanes = s.lanes := foldl_keeps f lanes hf l s

@[simp] theorem resolveEntry_lanes (t : Nat) (r : ReadReq) {x : State} (h : x.lanes = s.lanes) :
    (s.resolveEntry t r x).lanes = s.lanes := by
  unfold resolveEntry
  split
  case h_1 => exact h
  case h_2 =>
    split
    case h_1 => exact h
    all_goals simp

@[simp] theorem missComplete_lanes (t : Nat) (b : List Byte) : (s.missComplete t b).lanes = s.lanes := by
  unfold missComplete
  split
  case h_1 => rfl
  case h_2 =>
    split
    case isTrue => simp
    case isFalse => split <;> simp

@[simp] theorem resolveAfresh_lanes (p : Read → Bool) : (s.resolveAfresh p).lanes = s.lanes :=
  s.foldl_lanes (fun x => x.resolveHazard_lanes) _

@[simp] theorem endOverlay_lanes : s.endOverlay.lanes = s.lanes := by
  unfold endOverlay
  split
  case h_1 => rfl
  case h_2 => exact resolveAfresh_lanes _ _

@[simp] theorem overlayWritten_lanes (l : Addr) : (s.overlayWritten l).lanes = s.lanes := by
  unfold overlayWritten
  split
  case h_1 => rfl
  case h_2 => split <;> simp

@[simp] theorem overlayExpired_lanes : s.overlayExpired.lanes = s.lanes := by
  unfold overlayExpired
  split
  case h_1 => split <;> simp
  case h_2 => rfl

@[simp] theorem releaseHazards_lanes : s.releaseHazards.lanes = s.lanes :=
  s.foldl_lanes (fun x => x.resolveOverlay_lanes) _

@[simp] theorem serveFilled_lanes (i : Nat) (d : Sector) : (s.serveFilled i d).lanes = s.lanes :=
  s.foldl_lanes (fun x (r : Read) => x.hitRead_lanes r.tag i d r.req) _

@[simp] theorem refuseMisses_lanes (x : RefusalReason) : (s.refuseMisses x).lanes = s.lanes :=
  s.foldl_lanes (fun y t => y.refuseRead_lanes t x) _

@[simp] theorem completeFill_lanes (i : Nat) : (s.completeFill i).lanes = s.lanes := by
  unfold completeFill
  split
  case h_1 => exact serveFilled_lanes _ _ _
  case h_2 => rfl

@[simp] theorem fillReported_lanes (n p : Nat) (b : List Byte) : (s.fillReported n p b).lanes = s.lanes := by
  unfold fillReported
  split
  case isTrue => rfl
  case isFalse =>
    split
    case h_1 => rfl
    case h_2 =>
      simp only
      split
      case isTrue => exact completeFill_lanes _ _
      case isFalse => rfl

@[simp] theorem timeoutOperation_lanes (op : FlashOp) : (s.timeoutOperation op).lanes = s.lanes :=
  (refuseMisses_lanes _ _).trans (lanes_of_port (by simp))

@[simp] theorem serveNext_lanes (op : FlashOp) (l : List Nat) : (s.serveNext op l).lanes = s.lanes :=
  lanes_of_port (by simp)

@[simp] theorem completeRead_lanes (b : List Byte) : (s.completeRead b).lanes = s.lanes := by
  unfold completeRead
  split
  case h_1 =>
    split
    case isTrue => exact missComplete_lanes _ _ _
    case isFalse => rfl
  case h_2 =>
    split
    case isTrue => exact fillReported_lanes _ _ _ _
    case isFalse => rfl
  case h_3 =>
    split
    case isTrue => exact lanes_of_port (by simp)
    case isFalse => rfl
  case h_4 =>
    split
    case isTrue => exact (serveNext_lanes _ _ _).trans (s.missComplete_lanes _ b)
    case isFalse => rfl
  case h_5 => rfl

@[simp] theorem suspendLimit_lanes (x : Byte) : (s.suspendLimit x).lanes = s.lanes := by
  unfold suspendLimit
  split
  case h_1 =>
    simp only
    split_ifs
    · exact lanes_of_port (by simp)
    · exact timeoutOperation_lanes _ _
    · rfl
  case h_2 => rfl

@[simp] theorem timeLimit_lanes : s.timeLimit.lanes = s.lanes := by
  unfold timeLimit
  split
  case h_1 => split <;> simp
  case h_2 => rfl

@[simp] theorem enterSafe_lanes : s.enterSafe.lanes = s.lanes := by
  simp only [enterSafe]
  split
  case isTrue => exact refuseMisses_lanes _ _
  case isFalse => rfl

variable {s} {t : State} (h : t.lanes = s.lanes)
include h

theorem write_of_lanes : t.port.write = s.port.write := congrArg (·.2.1) h

theorem lanesOpen_of_lanes : t.port.lanesOpen = s.port.lanesOpen := congrArg (·.2.2.2.1) h

theorem waitReads_of_lanes : t.port.waitReads = s.port.waitReads := congrArg (·.2.2.2.2.1) h

theorem waitWrites_of_lanes : t.port.waitWrites = s.port.waitWrites := congrArg (·.2.2.2.2.2) h

theorem length_reads_of_lanes : t.port.reads.length = s.port.reads.length := by
  simpa [lanes] using congrArg (·.1.length) h

end State

end Sys2Proof.Machine
end

section
/-! SUPPORT. What an effect can do to the write in progress, the length of the read queue and the writes that wait (R85, R94 to R101). -/

namespace Sys2Proof.Machine

/-- What a write's stages leave in the lane: nothing, or the write itself, held from then on with the hold timer it had. -/
def WriteLeft (w : WriteInProgress) (o : Option WriteInProgress) : Prop :=
  ∀ x, o = some x → x.req = w.req ∧ ∀ c, x.stage = .held c → x.hold = w.hold

theorem WriteLeft.none (w : WriteInProgress) : WriteLeft w .none := fun _ h => by cases h

/-- What becomes of a write in the lanes of `s` at the end of its stages: it is answered or held, no read is added and
the waiting writes stay. -/
structure State.LeavesWrite (s : State) (w : WriteInProgress) (t : State) : Prop where
  write : WriteLeft w t.port.write
  reads : t.port.reads.length ≤ s.port.reads.length
  waiting : t.port.waitWrites = s.port.waitWrites

/-- The lanes but for the acceptance of a request: a write in progress is the one there was, and is held only if it was
held, with the same hold timer, and for the same cause where causes are fixed; no read is added and the waiting writes stay. -/
structure State.LaneStep (fixed : Prop) (s t : State) : Prop where
  write : ∀ x, t.port.write = some x → ∃ w, s.port.write = some w ∧ x.req = w.req ∧
    ∀ c, x.stage = .held c → (∃ c', w.stage = .held c' ∧ (fixed → c' = c)) ∧ x.hold = w.hold
  reads : t.port.reads.length ≤ s.port.reads.length
  waiting : t.port.waitWrites = s.port.waitWrites

namespace State

variable {k : Prop} {s t u : State} {w : WriteInProgress}

/-! ### The stages of a write -/

/-- The operations of the capture unit and of the event unit leave the port. -/
theorem answerWrite_leaves (s : State) (w : WriteInProgress) (work : Image) : s.LeavesWrite w (s.answerWrite w work) := by
  have hl : (s.answerWrite w work).lanes = (s.setWrite none).lanes := by
    simp only [answerWrite, overlayWritten_lanes, updateResults_lanes]
    exact lanes_of_port (by simp)
  exact ⟨write_of_lanes hl ▸ .none w, (length_reads_of_lanes hl).le, (waitWrites_of_lanes hl :)⟩

@[simp] theorem refuseWrite_port (s : State) (w : WriteInProgress) (x : RefusalReason) :
    (s.refuseWrite w x).port.write = none ∧ (s.refuseWrite w x).port.reads = s.port.reads ∧
    (s.refuseWrite w x).port.waitWrites = s.port.waitWrites ∧ (s.refuseWrite w x).port.waitReads = s.port.waitReads ∧
    (s.refuseWrite w x).port.lanesOpen = s.port.lanesOpen := by
  simp [refuseWrite, recordRefusal]

theorem refuseWrite_leaves (s : State) (w : WriteInProgress) (x : RefusalReason) : s.LeavesWrite w (s.refuseWrite w x) := by
  obtain ⟨hw, hr, hww, -, -⟩ := s.refuseWrite_port w x
  exact ⟨hw ▸ .none w, (congrArg List.length hr).le, hww⟩

theorem heldFor_leaves (s : State) (w : WriteInProgress) (c : HoldCause) : s.LeavesWrite w (s.heldFor w c) := by
  refine ⟨fun x hx => ?_, le_rfl, rfl⟩
  cases hx
  exact ⟨rfl, fun _ _ => rfl⟩

/-- What came before left the port as it was. -/
theorem LeavesWrite.after (h : t.LeavesWrite w u) (hp : t.port = s.port) : s.LeavesWrite w u :=
  ⟨h.write, hp ▸ h.reads, hp ▸ h.waiting⟩

/-- The decision given to a write on its way makes no difference. -/
theorem LeavesWrite.ofDecision {d : Option Decision} (h : s.LeavesWrite { w with decision := d } t) : s.LeavesWrite w t :=
  ⟨fun x hx => h.write x hx, h.reads, h.waiting⟩

theorem landWrite_leaves (s : State) (w : WriteInProgress) (i : Nat) (e : Entry) : s.LeavesWrite w (s.landWrite w i e) :=
  (answerWrite_leaves _ w _).after (by simp)

theorem stageWrite_leaves (s : State) (w : WriteInProgress) : s.LeavesWrite w (s.stageWrite w) := by
  obtain ⟨x, hx⟩ := Stages.total s w
  rw [hx.stageWrite_eq]
  cases hx with
  | merge => exact s.landWrite_leaves w _ _
  | committing => exact s.heldFor_leaves w _
  | faulted => exact s.refuseWrite_leaves w _
  | allocate => exact (landWrite_leaves _ w _ _).after rfl
  | pressure => exact (heldFor_leaves _ w _).after rfl
  | noEntry => exact s.heldFor_leaves w _

theorem fenceStage_leaves (s : State) (w : WriteInProgress) : s.LeavesWrite w (s.fenceStage w) := by
  obtain ⟨x, hx⟩ := Decides.total s w
  have hp : (s.decided w).port = s.port := by simp [decided]
  rw [hx.fenceStage_eq]
  cases hx with
  | fence => exact ((refuseWrite_leaves _ (s.withDecision w) _).after hp).ofDecision
  | denied => exact ((refuseWrite_leaves _ (s.withDecision w) _).after hp).ofDecision
  | media => exact ((refuseWrite_leaves _ (s.withDecision w) _).after hp).ofDecision
  | noSpace => exact ((heldFor_leaves _ (s.withDecision w) _).after hp).ofDecision
  | strict q x _ _ _ _ hx =>
    rw [← hx.stageWrite_eq]
    exact ((stageWrite_leaves ((s.decided w).reserve q) (s.withDecision w)).after hp).ofDecision
  | plain x _ _ hx =>
    rw [← hx.stageWrite_eq]
    exact ((stageWrite_leaves (s.decided w) (s.withDecision w)).after hp).ofDecision

theorem powerStage_leaves (s : State) (w : WriteInProgress) : s.LeavesWrite w (s.powerStage w) := by
  obtain ⟨x, hx⟩ := Admits.total s w
  rw [hx.powerStage_eq]
  cases hx with
  | run x _ hx => exact hx.fenceStage_eq ▸ s.fenceStage_leaves w
  | drain x _ _ hx => exact hx.fenceStage_eq ▸ (fenceStage_leaves s.withdrawSleep w).after (by simp)
  | abort x _ _ hx => exact hx.fenceStage_eq ▸ (fenceStage_leaves (s.abandonDrain .activity) w).after (by simp)
  | wakes => exact (heldFor_leaves _ w _).after (by simp)
  | waits => exact s.heldFor_leaves w _
  | refused => exact s.refuseWrite_leaves w _
  | unconfigured => exact s.refuseWrite_leaves w _

/-! ### Effects that accept no request -/

theorem LaneStep.of_lanes (h : t.lanes = s.lanes) : s.LaneStep k t := by
  refine ⟨fun x hx => ⟨x, ?_, rfl, fun c hc => ⟨⟨c, hc, fun _ => rfl⟩, rfl⟩⟩, (length_reads_of_lanes h).le, waitWrites_of_lanes h⟩
  rw [← write_of_lanes h, hx]

theorem LaneStep.refl (s : State) : s.LaneStep k s := .of_lanes rfl

theorem LaneStep.of_port (h : t.port = s.port) : s.LaneStep k t := .of_lanes (lanes_of_port h)

theorem LaneStep.trans (h : s.LaneStep k t) (h' : t.LaneStep k u) : s.LaneStep k u := by
  refine ⟨fun x hx => ?_, h'.reads.trans h.reads, h'.waiting.trans h.waiting⟩
  obtain ⟨y, hy, hreq, hheld⟩ := h'.write x hx
  obtain ⟨w, hw, hreq', hheld'⟩ := h.write y hy
  refine ⟨w, hw, hreq.trans hreq', fun c hc => ?_⟩
  obtain ⟨⟨c', hc', he⟩, hhold⟩ := hheld c hc
  obtain ⟨⟨c'', hc'', he'⟩, hhold'⟩ := hheld' c' hc'
  exact ⟨⟨c'', hc'', fun hk => (he' hk).trans (he hk)⟩, hhold.trans hhold'⟩

/-- What came before left the port as it was. -/
theorem LaneStep.after (h : t.LaneStep k u) (hp : t.port = s.port) : s.LaneStep k u := (LaneStep.of_port hp).trans h

/-- What follows leaves the port as it is. -/
theorem LaneStep.then (h : s.LaneStep k t) (hp : u.port = t.port) : s.LaneStep k u := h.trans (.of_port hp)

/-- An effect that empties the lane of writes. -/
theorem LaneStep.of_none (hw : t.port.write = none) (hr : t.port.reads.length ≤ s.port.reads.length)
    (hww : t.port.waitWrites = s.port.waitWrites) : s.LaneStep k t :=
  ⟨fun _ hx => absurd (hw.symm.trans hx) nofun, hr, hww⟩

/-- A held write that goes on from a stage. -/
theorem LeavesWrite.laneStep (h : s.LeavesWrite w t) (hw : s.port.write = some w) {c : HoldCause}
    (hc : w.stage = .held c) : s.LaneStep False t := by
  refine ⟨fun x hx => ⟨w, hw, (h.write x hx).1, fun c' hc' => ⟨⟨c, hc, False.elim⟩, (h.write x hx).2 c' hc'⟩⟩, h.reads,
    h.waiting⟩

/-- The write in progress enters a stage that is no hold. -/
theorem LaneStep.stage {x : WriteStage} (hw : s.port.write = some w) (hx : ∀ c, x ≠ .held c) {hold : Option Tick} :
    s.LaneStep k (s.setWrite (some { w with stage := x, hold := hold })) := by
  refine ⟨fun y hy => ⟨w, hw, ?_⟩, le_rfl, rfl⟩
  cases hy
  exact ⟨rfl, fun c hc => absurd hc (hx c)⟩

theorem refuseWrite_laneStep (s : State) (w : WriteInProgress) (x : RefusalReason) : s.LaneStep k (s.refuseWrite w x) := by
  obtain ⟨hw, hr, hww, -, -⟩ := s.refuseWrite_port w x
  exact .of_none hw (congrArg List.length hr).le hww

theorem releaseWrite_laneStep (s : State) : s.LaneStep False s.releaseWrite := by
  unfold releaseWrite
  split
  case h_1 => exact .refl s
  case h_2 w hw =>
    split
    case h_1 hc => exact (s.fenceStage_leaves w).laneStep hw hc
    case h_2 hc => exact (s.stageWrite_leaves w).laneStep hw hc
    case h_3 hc => exact (s.stageWrite_leaves w).laneStep hw hc
    case h_4 => exact .refl s

theorem refuseHeld_laneStep (s : State) : s.LaneStep k s.refuseHeld := by
  unfold refuseHeld
  split
  case h_1 w _ =>
    split
    case h_1 => exact s.refuseWrite_laneStep w _
    case h_2 => exact .refl s
  case h_2 => exact .refl s

theorem holdExpired_laneStep (s : State) : s.LaneStep k s.holdExpired := by
  unfold holdExpired
  split
  case h_1 w _ =>
    split
    case h_1 =>
      split
      case isTrue => exact (refuseWrite_laneStep _ w _).after rfl
      case isFalse => exact .refl s
    case h_2 => exact .refl s
  case h_2 => exact .refl s

theorem answerRead_port (s : State) (r : Read) (res : ReadResult) :
    (s.answerRead r res).port.reads = s.port.reads ∧ (s.answerRead r res).port.write = s.port.write ∧
    (s.answerRead r res).port.waitWrites = s.port.waitWrites ∧ (s.answerRead r res).port.waitReads = s.port.waitReads ∧
    (s.answerRead r res).port.lanesOpen = s.port.lanesOpen := by
  unfold answerRead
  split <;> simp [recordRefusal]

theorem answerRead_lanes (s : State) (r : Read) (res : ReadResult) : s.LaneStep k (s.answerRead r res) := by
  obtain ⟨hr, hw, hww, -, -⟩ := s.answerRead_port r res
  refine ⟨fun x hx => ⟨x, hw ▸ hx, rfl, fun c hc => ⟨⟨c, hc, fun _ => rfl⟩, rfl⟩⟩, (congrArg List.length hr).le, hww⟩

theorem setReads_laneStep (s : State) {l : List Read} (h : l.length ≤ s.port.reads.length) : s.LaneStep k (s.setReads l) :=
  ⟨fun x hx => ⟨x, hx, rfl, fun c hc => ⟨⟨c, hc, fun _ => rfl⟩, rfl⟩⟩, h, rfl⟩

theorem answerOldest_laneStep (s : State) : s.LaneStep k s.answerOldest := by
  unfold answerOldest
  split
  case h_1 r rest hr =>
    split
    case h_1 => exact (s.setReads_laneStep (by rw [hr]; exact Nat.le_succ _)).trans (answerRead_lanes _ _ _)
    case h_2 => exact .refl s
  case h_2 => exact .refl s

theorem answerAll_laneStep (s : State) : s.LaneStep k s.answerAll := by
  have hf : ∀ (l : List Read) (x : State), x.LaneStep k (l.foldl (fun s r => s.answerRead r (resetResult r)) x) := by
    intro l
    induction l with
    | nil => exact .refl
    | cons r l ih => exact fun x => (answerRead_lanes x r _).trans (ih _)
  exact (s.setReads_laneStep (Nat.zero_le _)).trans (hf _ _)

theorem answerControl_laneStep (s : State) : s.LaneStep k s.answerControl := by
  unfold answerControl
  split
  case h_1 => exact .of_none rfl le_rfl rfl
  case h_2 => exact .refl s

theorem placeReply_laneStep (s : State) : s.LaneStep k s.placeReply := by
  unfold placeReply
  split
  case h_1 =>
    split
    case h_1 => exact (answerControl_laneStep _).after rfl
    case h_2 => exact .refl s
  case h_2 => exact .refl s

theorem setReply_laneStep (s : State) (code : Byte) (r : Reply) : s.LaneStep k (s.setReply code r) := by
  unfold setReply
  split
  case h_1 hw => exact .stage hw (by nofun)
  case h_2 => exact .refl s

theorem completeFuses_laneStep (s : State) (failed : List Byte) : s.LaneStep k (s.completeFuses failed) := by
  unfold completeFuses
  split
  case h_1 =>
    split
    case h_1 => exact (setReply_laneStep _ _ _).after rfl
    case h_2 => exact .refl s
  case h_2 => exact .refl s

/-! ### Power warning, start-up, soft reset -/

theorem takeAssertion_laneStep (s : State) : s.LaneStep k s.takeAssertion := by
  have emergency (x : State) : x.LaneStep k x.enterEmergency := (refuseHeld_laneStep _).after rfl
  unfold takeAssertion
  split
  case h_1 => exact .refl s
  case h_2 => exact .of_port rfl
  case h_3 => exact (emergency _).after rfl
  case h_4 => exact (emergency _).after rfl
  case h_5 => exact (emergency _).after (by simp)
  case h_6 => exact .of_lanes (enterSafe_lanes (s.raise .powerWarning))
  case h_7 => exact .of_port rfl
  case h_8 => exact .of_port rfl

theorem pwrwarnHigh_laneStep (s : State) : s.LaneStep k s.pwrwarnHigh := by
  unfold pwrwarnHigh
  split
  case isTrue => exact .refl s
  case isFalse => exact (takeAssertion_laneStep _).after rfl

theorem endStartup_laneStep (s : State) (x : SeqState) : s.LaneStep k (s.endStartup x) := by
  have hl : s.LaneStep k (((s.setSeqSt x).setPowerSt .run).setLanes true) :=
    ⟨fun x hx => ⟨x, hx, rfl, fun c hc => ⟨⟨c, hc, fun _ => rfl⟩, rfl⟩⟩, le_rfl, rfl⟩
  simp only [endStartup]
  split
  case isTrue => exact hl.trans (takeAssertion_laneStep _)
  case isFalse => exact hl

theorem wakeEndDue_laneStep (s : State) (st : Byte) : s.LaneStep k (s.wakeEndDue st) := by
  unfold wakeEndDue wakeEnded
  split
  case h_1 =>
    split_ifs
    · simp only [firstStatus]
      split
      case h_1 => exact (endStartup_laneStep _ _).after rfl
      case h_2 => exact .of_port rfl
      case h_3 => exact .of_port (by simp)
    · exact .of_port (by simp)
    · exact .refl s
  case h_2 => exact .refl s

theorem tickPoll_laneStep (s : State) (st : Byte) : s.LaneStep k (s.tickPoll st) := by
  unfold tickPoll
  split
  case h_1 => exact .of_port (by simp)
  case h_2 =>
    simp only [startupPoll]
    split
    case h_1 => exact (endStartup_laneStep _ _).after rfl
    case h_2 => exact .of_port rfl
    case h_3 => split <;> exact .of_port (by simp)
  case h_3 => exact .refl s

theorem startupLimitDue_laneStep (s : State) : s.LaneStep k s.startupLimitDue := by
  unfold startupLimitDue
  split
  case h_1 =>
    split
    case isTrue => exact (endStartup_laneStep (s.raise .flashStall) .stalled).after rfl
    case isFalse => exact .refl s
  case h_2 => exact .refl s

theorem softResetEffect_laneStep (s : State) : s.LaneStep k s.softResetEffect := by
  have hv : s.LaneStep k s.answerControl.softResetValues := by
    refine .of_none rfl (Nat.zero_le _) ?_
    exact (answerControl_laneStep (k := k) s).waiting
  simp only [softResetEffect]
  split_ifs
  · exact hv.trans ((takeAssertion_laneStep _).after rfl)
  · exact hv.then rfl
  · exact hv.trans (takeAssertion_laneStep _)
  · exact hv

/-! ### Control records -/

theorem acceptSoftReset_laneStep (s : State) : s.LaneStep k s.acceptSoftReset := by
  have hl : s.LaneStep k ((s.setLanes false).withControl { s.control with softReset := true }) :=
    ⟨fun x hx => ⟨x, hx, rfl, fun c hc => ⟨⟨c, hc, fun _ => rfl⟩, rfl⟩⟩, le_rfl, rfl⟩
  exact (hl.trans (answerAll_laneStep _)).then (by simp [acceptSoftReset])

theorem execCode_laneStep (s : State) (room : Nat) (code : Byte) (a : List Byte) :
    s.LaneStep k (execCode room code a s).1 := by
  unfold execCode
  split
  case h_3 =>
    simp only [cmdSoftReset]
    split
    case h_1 => exact .refl s
    case h_2 =>
      split
      case isTrue => exact .refl s
      case isFalse =>
        have ha : s.LaneStep k s.awaitReset := by
          unfold awaitReset
          split
          case h_1 hw => exact .stage hw (by nofun)
          case h_2 => exact .refl s
        exact ha.trans (acceptSoftReset_laneStep _)
  case h_20 =>
    unfold cmdFaultDiscard
    split_ifs
    · exact .refl s
    · split
      · exact .refl s
      · split
        · exact .of_lanes (resolveAfresh_lanes (s.withStaging _) _)
        · exact .refl s
  case h_25 =>
    simp only [cmdProgramFuse]
    split
    · exact .refl s
    · split_ifs
      · exact .refl s
      · exact .refl s
      · unfold startFuses
        split
        case h_1 hw => exact .stage hw (by nofun)
        case h_2 => exact .refl s
  all_goals exact .of_port (by simp)

theorem finishCommand_laneStep (code : Byte) (r : CommandResult) : r.1.LaneStep k (finishCommand code r) := by
  unfold finishCommand
  split
  case h_1 => exact setReply_laneStep _ _ _
  case h_2 => exact .refl _

/-- A control record is executed in its stage, in which it is not held. -/
theorem consumeRecord_laneStep (s : State) (w : WriteInProgress) (bs : List Byte) :
    (s.setWrite (some { w with hold := none, stage := .control })).LaneStep k (s.consumeRecord w bs) :=
  (LaneStep.of_lanes (endOverlay_lanes _)).trans ((execCode_laneStep _ (roomAt w.req.line) (byteAt bs 8)
    ((bs.drop 9).take 53)).trans (finishCommand_laneStep (byteAt bs 8) _))

theorem consumeRecord_notHeld (s : State) (w : WriteInProgress) (bs : List Byte) :
    ∀ x, (s.consumeRecord w bs).port.write = some x → x.req = w.req ∧ ∀ c, x.stage ≠ .held c := by
  intro x hx
  obtain ⟨y, hy, hreq, hheld⟩ := (consumeRecord_laneStep (k := False) s w bs).write x hx
  cases hy
  exact ⟨hreq, fun c hc => by obtain ⟨⟨c', hc', -⟩, -⟩ := hheld c hc; cases hc'⟩

theorem consumeRecord_leaves (s : State) (w : WriteInProgress) (bs : List Byte) :
    s.LeavesWrite w (s.consumeRecord w bs) := by
  have hstep := consumeRecord_laneStep (k := False) s w bs
  refine ⟨fun x hx => ?_, hstep.reads, hstep.waiting⟩
  obtain ⟨hreq, hheld⟩ := s.consumeRecord_notHeld w bs x hx
  exact ⟨hreq, fun c hc => absurd hc (hheld c)⟩

theorem recognise_leaves (s : State) (w : WriteInProgress) : s.LeavesWrite w (s.recognise w) := by
  unfold recognise
  split
  case isTrue =>
    split
    case h_1 =>
      split
      case isTrue => exact s.consumeRecord_leaves w _
      case isFalse => exact (powerStage_leaves (s.raise .controlCheckFailed) w).after rfl
    case h_2 => exact s.powerStage_leaves w
  case isFalse => exact s.powerStage_leaves w

/-- A write accepted is the write of its request, its hold timer started (R94). -/
theorem acceptWrite_leaves (s : State) (req : WriteReq) : s.LeavesWrite (s.accepted req) (s.acceptWrite req) := by
  simp only [acceptWrite]
  have hold : tickAfter s.now s.time.timing.holdLimit.toNat = s.now + s.time.timing.holdLimit.setWidth 32 := by
    simp only [tickAfter]
    congr 1
    exact BitVec.eq_of_toNat_eq (by simp)
  split
  case isTrue =>
    have h := refuseWrite_leaves (s.setWrite (some (s.accepted req))) (s.accepted req) .badSpan
    rw [accepted, ← hold] at h
    exact ⟨by rw [accepted, ← hold]; exact h.write, h.reads, h.waiting⟩
  case isFalse =>
    have h := recognise_leaves (s.setWrite (some (s.accepted req))) (s.accepted req)
    rw [accepted, ← hold] at h
    exact ⟨by rw [accepted, ← hold]; exact h.write, h.reads, h.waiting⟩

/-- The read lane takes at most one read; the lane of writes stays (R85). -/
theorem acceptNextRead_lanes (s : State) : s.acceptNextRead.port.reads.length ≤ s.port.reads.length + 1 ∧
    s.acceptNextRead.port.write = s.port.write ∧ s.acceptNextRead.port.waitWrites = s.port.waitWrites := by
  unfold acceptNextRead
  split
  case h_1 => exact ⟨Nat.le_succ _, rfl, rfl⟩
  case h_2 req rest _ =>
    generalize hx : s.withPort { s.port with waitReads := rest } = x
    have pushed {t : State} (r : Read) (h : t.lanes = (x.pushRead r).lanes) :
        t.port.reads.length ≤ s.port.reads.length + 1 ∧ t.port.write = s.port.write ∧
        t.port.waitWrites = s.port.waitWrites := by
      subst hx
      exact ⟨(length_reads_of_lanes h).le.trans (by simp [pushRead]), (write_of_lanes h :), (waitWrites_of_lanes h :)⟩
    have noted (r : Read) (d : Decision) : ((x.noteUrgent d).pushRead r).lanes = (x.pushRead r).lanes := by
      simp [lanes, pushRead]
    simp only [acceptRead, decideRead]
    split_ifs
    · exact pushed _ rfl
    · exact pushed _ (resolveHazard_lanes _ _)
    · exact pushed _ rfl
    · exact pushed _ (noted _ _)
    · exact pushed _ ((resolveHazard_lanes _ _).trans (noted _ _))

theorem acceptWrite_crosses (s : State) (req : WriteReq) (h : crossesLine req.offset req.bytes.length = true) :
    (s.acceptWrite req).port.write = none := by
  simp only [acceptWrite, h, Bool.true_or, if_true]
  exact (refuseWrite_port ..).1

/-- The lane takes at most the first waiting write within a line, which is then held only with the hold timer started for
it; no read is added. -/
theorem acceptNextWrite_lanes (s : State) (hfree : s.port.write = none) :
    (∀ x, s.acceptNextWrite.port.write = some x → ∃ req, req ∈ s.port.waitWrites ∧
      crossesLine req.offset req.bytes.length = false ∧ WriteLeft (s.accepted req) (some x)) ∧
    s.acceptNextWrite.port.reads.length ≤ s.port.reads.length ∧
    (∀ req, req ∈ s.acceptNextWrite.port.waitWrites → req ∈ s.port.waitWrites) := by
  unfold acceptNextWrite
  split
  case h_1 e => exact ⟨fun x hx => absurd (hfree.symm.trans hx) nofun, le_rfl, fun _ h => h⟩
  case h_2 req rest e =>
    have h := acceptWrite_leaves (s.withPort { s.port with waitWrites := rest }) req
    refine ⟨fun x hx => ⟨req, e ▸ List.mem_cons_self, Bool.eq_false_iff.mpr fun hc => ?_, ?_⟩, h.reads, fun r hr => ?_⟩
    · exact absurd ((acceptWrite_crosses _ req hc).symm.trans hx) nofun
    · exact hx ▸ h.write
    · rw [h.waiting] at hr
      exact e ▸ List.mem_cons_of_mem _ hr

end State

end Sys2Proof.Machine
end

section
/-! SUPPORT. The sizes of the tables (00_scope Table 3): the units of fixed size, the staging table and the read queue, each a law of its own. -/

namespace Sys2Proof.Machine

theorem Kept.and {P Q : State → Prop} (p : Kept P) (q : Kept Q) : Kept fun s => P s ∧ Q s where
  clearOut s h := ⟨p.clearOut s h.1, q.clearOut s h.2⟩
  pending s x h := ⟨p.pending s x h.1, q.pending s x h.2⟩
  guard s x h := ⟨p.guard s x h.1, q.guard s x h.2⟩
  presentRead s a b c h := ⟨p.presentRead s a b c h.1, q.presentRead s a b c h.2⟩
  presentWrite s x h := ⟨p.presentWrite s x h.1, q.presentWrite s x h.2⟩
  softReset s h c := ⟨p.softReset s h.1 c, q.softReset s h.2 c⟩
  release s h c := ⟨p.release s h.1 c, q.release s h.2 c⟩
  hazards s h := ⟨p.hazards s h.1, q.hazards s h.2⟩
  withdraw s h := ⟨p.withdraw s h.1, q.withdraw s h.2⟩
  grant s h c := ⟨p.grant s h.1 c, q.grant s h.2 c⟩
  answer s h c := ⟨p.answer s h.1 c, q.answer s h.2 c⟩
  drain s h c := ⟨p.drain s h.1 c, q.drain s h.2 c⟩
  safe s h c := ⟨p.safe s h.1 c, q.safe s h.2 c⟩
  reply s h c := ⟨p.reply s h.1 c, q.reply s h.2 c⟩
  read s h c := ⟨p.read s h.1 c, q.read s h.2 c⟩
  write s h c := ⟨p.write s h.1 c, q.write s h.2 c⟩
  completeRead s x h := ⟨p.completeRead s x h.1, q.completeRead s x h.2⟩
  pollStatus s x h := ⟨p.pollStatus s x h.1, q.pollStatus s x h.2⟩
  deferred s h := ⟨p.deferred s h.1, q.deferred s h.2⟩
  suspendLimit s x h := ⟨p.suspendLimit s x h.1, q.suspendLimit s x h.2⟩
  timeLimit s h := ⟨p.timeLimit s h.1, q.timeLimit s h.2⟩
  wakeEnd s x h := ⟨p.wakeEnd s x h.1, q.wakeEnd s x h.2⟩
  startupLimit s h := ⟨p.startupLimit s h.1, q.startupLimit s h.2⟩
  hold s h := ⟨p.hold s h.1, q.hold s h.2⟩
  idle s i h := ⟨p.idle s i h.1, q.idle s i h.2⟩
  age s i h := ⟨p.age s i h.1, q.age s i h.2⟩
  stale s x h := ⟨p.stale s x h.1, q.stale s x h.2⟩
  drainExpired s h := ⟨p.drainExpired s h.1, q.drainExpired s h.2⟩
  overlay s h := ⟨p.overlay s h.1, q.overlay s h.2⟩
  increment s h := ⟨p.increment s h.1, q.increment s h.2⟩
  tickPoll s x h := ⟨p.tickPoll s x h.1, q.tickPoll s x h.2⟩
  subTick s n h := ⟨p.subTick s n h.1, q.subTick s n h.2⟩
  draw s h := ⟨p.draw s h.1, q.draw s h.2⟩
  fuses s x h := ⟨p.fuses s x h.1, q.fuses s x h.2⟩
  high s h := ⟨p.high s h.1, q.high s h.2⟩
  low s h := ⟨p.low s h.1, q.low s h.2⟩

theorem Restarts.and {P Q : State → Prop} (p : Restarts P) (q : Restarts Q) : Restarts fun s => P s ∧ Q s where
  tear s h := ⟨p.tear s h.1, q.tear s h.2⟩
  powered s b h := ⟨p.powered s b h.1, q.powered s b h.2⟩
  resetHeld s b h := ⟨p.resetHeld s b h.1, q.resetHeld s b h.2⟩
  powerOn s h := ⟨p.powerOn s h.1, q.powerOn s h.2⟩
  startUp s st h := ⟨p.startUp s st h.1, q.startUp s st h.2⟩

/-! ### The staging table -/

/-- Bounds that allow every merge and every page. -/
def Bounds.all : Bounds := { merge := fun _ _ => True, page := fun _ _ => True }

theorem tearFuses_blocks (s : State) : s.tearFuses.staging = s.staging ∧ s.tearFuses.seq = s.seq ∧ s.tearFuses.time = s.time ∧
    s.tearFuses.power = s.power ∧ s.tearFuses.port = s.port := by
  unfold State.tearFuses
  split <;> simp

/-- A law of the staging block that each of its changes keeps in a part of the law `Q`, beside this law, which allows the
merges and the fill pages that can come. -/
theorem tableLaw_steady {R : Bounds} {Q : State → Prop} {T : Staging → Prop} (q : Steady Q)
    (h : ∀ s, Q s → ∀ g g', T g → TableStep R s.now s.time.timing g g' → T g')
    (write : ∀ s w, Q s → s.port.write = some w → R.Admits w.req)
    (waiting : ∀ s req, Q s → req ∈ s.port.waitWrites → crossesLine req.offset req.bytes.length = false → R.Admits req)
    (page : ∀ s p, Q s → s.seq.st.fillingPage = some p → R.page p Config.pageBytes) : Steady fun s => Q s ∧ T s.staging := by
  have path {s t : State} (p : s.Path R t) (hs : Q s ∧ T s.staging) : T t.staging := TableStep.keeps (h s hs.1) p hs.2
  have moves {s t : State} (m : s.Moves R t) (hs : Q s ∧ T s.staging) : T t.staging := path m.path hs
  have same {s t : State} (e : t.staging = s.staging) (hs : T s.staging) : T t.staging := by rwa [e]
  exact {
    clearOut := fun s hs => ⟨q.clearOut s hs.1, same rfl hs.2⟩
    pending := fun s x hs => ⟨q.pending s x hs.1, same rfl hs.2⟩
    guard := fun s x hs => ⟨q.guard s x hs.1, same rfl hs.2⟩
    presentRead := fun s a b c hs => ⟨q.presentRead s a b c hs.1, same rfl hs.2⟩
    presentWrite := fun s x hs => ⟨q.presentWrite s x hs.1, same rfl hs.2⟩
    softReset := fun s hs c => ⟨q.softReset s hs.1 c, path s.softResetEffect_path hs⟩
    release := fun s hs c => ⟨q.release s hs.1 c, moves (s.releaseWrite_moves fun w => write s w hs.1) hs⟩
    hazards := fun s hs => ⟨q.hazards s hs.1, moves s.releaseHazards_moves hs⟩
    withdraw := fun s hs => ⟨q.withdraw s hs.1, same (by simp) hs.2⟩
    grant := fun s hs c => ⟨q.grant s hs.1 c, moves s.grantNext_moves hs⟩
    answer := fun s hs c => ⟨q.answer s hs.1 c, same (by simp) hs.2⟩
    drain := fun s hs c => ⟨q.drain s hs.1 c, same (by simp) hs.2⟩
    safe := fun s hs c => ⟨q.safe s hs.1 c, same (by simp) hs.2⟩
    reply := fun s hs c => ⟨q.reply s hs.1 c, same (by simp) hs.2⟩
    read := fun s hs c => ⟨q.read s hs.1 c, moves s.acceptNextRead_moves hs⟩
    write := fun s hs c => ⟨q.write s hs.1 c, path (s.acceptNextWrite_path fun req => waiting s req hs.1) hs⟩
    completeRead := fun s bytes hs => ⟨q.completeRead s bytes hs.1,
      moves (s.completeRead_moves bytes fun p e l => l ▸ page s p hs.1 e) hs⟩
    pollStatus := fun s st hs => ⟨q.pollStatus s st hs.1, moves (s.pollStatus_moves st) hs⟩
    deferred := fun s hs => ⟨q.deferred s hs.1, same (by simp) hs.2⟩
    suspendLimit := fun s st hs => ⟨q.suspendLimit s st hs.1, moves (s.suspendLimit_moves st) hs⟩
    timeLimit := fun s hs => ⟨q.timeLimit s hs.1, moves s.timeLimit_moves hs⟩
    wakeEnd := fun s st hs => ⟨q.wakeEnd s st hs.1, moves (s.wakeEndDue_moves st) hs⟩
    startupLimit := fun s hs => ⟨q.startupLimit s hs.1, moves s.startupLimitDue_moves hs⟩
    hold := fun s hs => ⟨q.hold s hs.1, same (by simp) hs.2⟩
    idle := fun s i hs => ⟨q.idle s i hs.1, moves (s.idleExpired_moves i) hs⟩
    age := fun s i hs => ⟨q.age s i hs.1, moves (s.ageExpired_moves i) hs⟩
    stale := fun s n hs => ⟨q.stale s n hs.1, same (by simp) hs.2⟩
    drainExpired := fun s hs => ⟨q.drainExpired s hs.1, same (by simp) hs.2⟩
    overlay := fun s hs => ⟨q.overlay s hs.1, moves s.overlayExpired_moves hs⟩
    tickPoll := fun s st hs => ⟨q.tickPoll s st hs.1, moves (s.tickPoll_moves st) hs⟩
    subTick := fun s n hs => ⟨q.subTick s n hs.1, same rfl hs.2⟩
    draw := fun s hs => ⟨q.draw s hs.1, same rfl hs.2⟩
    fuses := fun s failed hs => ⟨q.fuses s failed hs.1,
      same (by simp only [State.completeFuses]; (repeat' split) <;> simp) hs.2⟩
    high := fun s hs => ⟨q.high s hs.1, moves s.pwrwarnHigh_moves hs⟩
    low := fun s hs => ⟨q.low s hs.1, same (by simp) hs.2⟩ }

/-- A law of the staging block that each of its changes keeps, beside a law that allows the merges and the fill pages that
can come. -/
theorem tableLaw_kept {R : Bounds} {Q : State → Prop} {T : Staging → Prop} (q : Kept Q)
    (h : ∀ now t g g', T g → TableStep R now t g g' → T g')
    (write : ∀ s w, Q s → s.port.write = some w → R.Admits w.req)
    (waiting : ∀ s req, Q s → req ∈ s.port.waitWrites → crossesLine req.offset req.bytes.length = false → R.Admits req)
    (page : ∀ s p, Q s → s.seq.st.fillingPage = some p → R.page p Config.pageBytes) : Kept fun s => Q s ∧ T s.staging :=
  (tableLaw_steady q.steady (fun _ _ => h _ _) write waiting page).kept fun s hs => ⟨q.increment s hs.1, hs.2⟩

/-- A law of the staging block that the block at reset meets outlives a restart. -/
theorem tableLaw_restarts {R : Bounds} {T : Staging → Prop} (h : ∀ now t g g', T g → TableStep R now t g g' → T g')
    (initial : T Staging.initial) : Restarts fun s => T s.staging where
  tear s hs := by rwa [(tearFuses_blocks s).1]
  powered _ _ hs := hs
  resetHeld _ _ hs := hs
  powerOn _ _ := initial
  startUp s st _ := by
    simp only [State.startUp]
    split
    case h_1 => exact initial
    case h_2 => exact TableStep.keeps (h _ _) (State.wakeEndDue_moves _ st).path initial

theorem TableStep.length_entries {R : Bounds} {now : Tick} {t : TimingSettings} {g g' : Staging}
    (hg : g.entries.length = Config.entryCount) (h : TableStep R now t g g') : g'.entries.length = Config.entryCount := by
  cases h with
  | reset => exact List.length_replicate
  | count => exact hg
  | drop => exact hg
  | _ => exact List.length_set.trans hg

/-! ### The read queue -/

theorem canAcceptWrite_free {s : State} (h : s.canAcceptWrite = true) : s.port.write = none := by
  simp only [State.canAcceptWrite, Bool.and_eq_true, Option.isNone_iff_eq_none] at h
  exact h.1.2

theorem State.presentRead_laneStep (s : State) (line : Addr) (o n : Nat) : s.LaneStep False (s.presentRead line o n) :=
  ⟨fun x hx => ⟨x, hx, rfl, fun c hc => ⟨⟨c, hc, fun _ => rfl⟩, rfl⟩⟩, le_rfl, rfl⟩

/-- A law of the lanes, which every effect that accepts no request keeps, and the acceptance of each, beside a law `Q`. -/
theorem laneLaw_steady {Q P : State → Prop} (q : Steady Q) (step : ∀ {s t : State}, s.LaneStep False t → P s → P t)
    (presentWrite : ∀ s req, P s → P (s.presentWrite req))
    (read : ∀ s, P s → s.canAcceptRead = true → P s.acceptNextRead)
    (write : ∀ s, Q s → P s → s.port.write = none → P s.acceptNextWrite) : Steady fun s => Q s ∧ P s := by
  have port {s t : State} (e : t.port = s.port) (hs : P s) : P t := step (.of_port e) hs
  have lanes {s t : State} (e : t.lanes = s.lanes) (hs : P s) : P t := step (.of_lanes e) hs
  exact {
    clearOut := fun s hs => ⟨q.clearOut s hs.1, port (s := s) rfl hs.2⟩
    pending := fun s x hs => ⟨q.pending s x hs.1, port (s := s) rfl hs.2⟩
    guard := fun s g hs => ⟨q.guard s g hs.1, port (s := s) rfl hs.2⟩
    presentRead := fun s line o n hs => ⟨q.presentRead s line o n hs.1, step (s.presentRead_laneStep ..) hs.2⟩
    presentWrite := fun s req hs => ⟨q.presentWrite s req hs.1, presentWrite s req hs.2⟩
    softReset := fun s hs c => ⟨q.softReset s hs.1 c, step s.softResetEffect_laneStep hs.2⟩
    release := fun s hs c => ⟨q.release s hs.1 c, step s.releaseWrite_laneStep hs.2⟩
    hazards := fun s hs => ⟨q.hazards s hs.1, lanes s.releaseHazards_lanes hs.2⟩
    withdraw := fun s hs => ⟨q.withdraw s hs.1, port (by simp) hs.2⟩
    grant := fun s hs c => ⟨q.grant s hs.1 c, port (by simp) hs.2⟩
    answer := fun s hs c => ⟨q.answer s hs.1 c, step s.answerOldest_laneStep hs.2⟩
    drain := fun s hs c => ⟨q.drain s hs.1 c, port (by simp) hs.2⟩
    safe := fun s hs c => ⟨q.safe s hs.1 c, lanes s.enterSafe_lanes hs.2⟩
    reply := fun s hs c => ⟨q.reply s hs.1 c, step s.placeReply_laneStep hs.2⟩
    read := fun s hs c => ⟨q.read s hs.1 c, read s hs.2 c⟩
    write := fun s hs c => ⟨q.write s hs.1 c, write s hs.1 hs.2 (canAcceptWrite_free c)⟩
    completeRead := fun s b hs => ⟨q.completeRead s b hs.1, lanes (s.completeRead_lanes b) hs.2⟩
    pollStatus := fun s st hs => ⟨q.pollStatus s st hs.1, port (by simp) hs.2⟩
    deferred := fun s hs => ⟨q.deferred s hs.1, port (by simp) hs.2⟩
    suspendLimit := fun s st hs => ⟨q.suspendLimit s st hs.1, lanes (s.suspendLimit_lanes st) hs.2⟩
    timeLimit := fun s hs => ⟨q.timeLimit s hs.1, lanes s.timeLimit_lanes hs.2⟩
    wakeEnd := fun s st hs => ⟨q.wakeEnd s st hs.1, step (s.wakeEndDue_laneStep st) hs.2⟩
    startupLimit := fun s hs => ⟨q.startupLimit s hs.1, step s.startupLimitDue_laneStep hs.2⟩
    hold := fun s hs => ⟨q.hold s hs.1, step s.holdExpired_laneStep hs.2⟩
    idle := fun s i hs => ⟨q.idle s i hs.1, port (by simp) hs.2⟩
    age := fun s i hs => ⟨q.age s i hs.1, port (by simp) hs.2⟩
    stale := fun s n hs => ⟨q.stale s n hs.1, port (by simp) hs.2⟩
    drainExpired := fun s hs => ⟨q.drainExpired s hs.1, port (by simp) hs.2⟩
    overlay := fun s hs => ⟨q.overlay s hs.1, lanes s.overlayExpired_lanes hs.2⟩
    tickPoll := fun s st hs => ⟨q.tickPoll s st hs.1, step (s.tickPoll_laneStep st) hs.2⟩
    subTick := fun s n hs => ⟨q.subTick s n hs.1, port (s := s) rfl hs.2⟩
    draw := fun s hs => ⟨q.draw s hs.1, port (s := s) rfl hs.2⟩
    fuses := fun s failed hs => ⟨q.fuses s failed hs.1, step (s.completeFuses_laneStep failed) hs.2⟩
    high := fun s hs => ⟨q.high s hs.1, step s.pwrwarnHigh_laneStep hs.2⟩
    low := fun s hs => ⟨q.low s hs.1, port (by simp) hs.2⟩ }

/-- A law of the lanes, which every effect that accepts no request keeps, and the acceptance of each. -/
theorem laneLaw_kept {P : State → Prop} (step : ∀ {s t : State}, s.LaneStep False t → P s → P t)
    (presentWrite : ∀ s req, P s → P (s.presentWrite req))
    (read : ∀ s, P s → s.canAcceptRead = true → P s.acceptNextRead)
    (write : ∀ s, P s → s.port.write = none → P s.acceptNextWrite) : Kept P := by
  have steady := laneLaw_steady .trivial step presentWrite read fun s _ => write s
  simp only [true_and] at steady
  exact steady.kept fun s => step (.of_port rfl)

/-- A law of the lanes outlives a restart, which empties them of all but the requests that wait. -/
theorem laneLaw_restarts {P : State → Prop} (step : ∀ {s t : State}, s.LaneStep False t → P s → P t) : Restarts P := by
  have blank (s : State) : s.LaneStep False s.powerOnValues := .of_none rfl (Nat.zero_le _) rfl
  exact {
    tear := fun s => step (.of_port (tearFuses_blocks s).2.2.2.2)
    powered := fun s _ => step (.of_port rfl)
    resetHeld := fun s _ => step (.of_port rfl)
    powerOn := fun s => step (blank s)
    startUp := fun s st hs => by
      simp only [State.startUp]
      split
      case h_1 =>
        exact step ((blank s).trans ⟨fun x hx => ⟨x, hx, rfl, fun c hc => ⟨⟨c, hc, fun _ => rfl⟩, rfl⟩⟩, le_rfl, rfl⟩) hs
      case h_2 => exact step ((blank s).trans ((State.wakeEndDue_laneStep _ st).after rfl)) hs }

/-- The length of the read queue is at most the lane's (R85). -/
def State.ReadsFit (s : State) : Prop := s.port.reads.length ≤ Config.readLaneSize

theorem State.ReadsFit.step {s t : State} (l : s.LaneStep False t) (h : s.ReadsFit) : t.ReadsFit := l.reads.trans h

theorem readsFit_kept : Kept State.ReadsFit :=
  laneLaw_kept .step (fun s req h => h)
    (fun s _ hc => s.acceptNextRead_lanes.1.trans (by
      simp only [State.canAcceptRead, Bool.and_eq_true, decide_eq_true_eq] at hc
      exact hc.1.2))
    (fun s h hfree => (s.acceptNextWrite_lanes hfree).2.1.trans h)

/-! ### The units of fixed size -/

/-- The rule list, the latch slots, the working key and the fuse groups have their sizes. -/
structure State.UnitSizes (s : State) : Prop where
  rules : s.rule.rules.length = Config.ruleCount
  slots : s.capture.slots.length = Config.slotCount
  key : s.control.key.length = 8
  keyFuses : s.fuses.key.length = 9
  profileFuses : s.fuses.profile.length = 16
  fenceFuses : s.fuses.fence.length = 1

theorem length_addBits : ∀ (l : List Byte) (k : Nat) (d : List Byte), (addBits l k d).length = l.length
  | [], _, _ => rfl
  | _ :: _, 0, [] => rfl
  | _ :: l, 0, _ :: d => congrArg (· + 1) (length_addBits l 0 d)
  | _ :: l, k + 1, d => congrArg (· + 1) (length_addBits l k d)

namespace State.UnitSizes

variable {s t : State}

/-- The rule unit and the capture unit may change, if not in size. -/
theorem resize (h : s.UnitSizes) (hr : t.rule.rules.length = s.rule.rules.length)
    (hs : t.capture.slots.length = s.capture.slots.length) (hk : t.control.key = s.control.key) (hf : t.fuses = s.fuses) :
    t.UnitSizes :=
  ⟨hr.trans h.rules, hs.trans h.slots, hk ▸ h.key, hf ▸ h.keyFuses, hf ▸ h.profileFuses, hf ▸ h.fenceFuses⟩

theorem frame (h : s.UnitSizes) (e : t.units = s.units) : t.UnitSizes := by
  simp only [State.units, Prod.mk.injEq] at e
  obtain ⟨hcapture, hrule, hkey, -, -, hfuses, -⟩ := e
  exact h.resize (by rw [hrule]) (by rw [hcapture]) hkey hfuses

end State.UnitSizes

theorem unitSizes_unitLaw : UnitLaw State.UnitSizes where
  frame h e := h.frame e
  put s n u r h := h.resize (by simp) (by simp [State.putRecord]) (by simp) (by simp)
  release s n h := h.resize rfl (by simp [State.release]) rfl rfl
  reserve s n _ h := h.resize rfl (by simp [State.reserve]) rfl rfl
  latch s n r h := h.resize rfl List.length_set rfl rfl
  stale s n h := h.resize rfl (by simp [State.expireStale]) rfl rfl
  urgent s d h := by
    unfold State.noteUrgent
    split
    case isTrue => exact h.resize rfl rfl rfl rfl
    case isFalse => exact h
  guard s g h := h.resize rfl rfl rfl rfl
  setTiming s t h := by
    simp only [cmdSetTiming]
    split
    case isTrue => exact ⟨h.rules, h.slots, h.key, h.keyFuses, h.profileFuses, h.fenceFuses⟩
    case isFalse => exact h
  setRule s a h := by
    unfold cmdSetRule
    split
    · exact h
    split
    · exact h
    split
    · exact h
    · exact h.resize List.length_set rfl rfl rfl
  setDefault s a c h := by
    unfold cmdSetDefault
    split_ifs
    · exact h
    · split
      · exact h.resize rfl rfl rfl rfl
      · exact h.resize rfl rfl rfl rfl
      · exact h
  setFence s a c d h := by
    unfold cmdSetFence
    split
    · exact h
    split
    · exact h
    split
    · exact h
    split
    · exact h
    · exact h.resize rfl rfl rfl rfl
  setLock s l h := by
    unfold cmdSetLock
    split
    · exact h
    · split_ifs
      · exact h.resize rfl rfl rfl rfl
      · exact h
  setQueue s q m w h := by
    simp only [cmdSetQueue]
    split
    · split_ifs
      · exact h
      · exact h.resize rfl (by simp [accept]) rfl rfl
    · exact h
  fetchCapture s n q m h := by
    simp only [cmdFetchCapture]
    split
    · exact h
    · split_ifs
      · exact h
      · exact h.resize rfl (by simp [accept]) rfl rfl
  ackCapture s q n h := by
    simp only [cmdAckCapture]
    split
    · exact h
    · split
      · exact h
      · exact h.resize rfl (by simp [accept]) rfl rfl
  releaseSlot s n h := by
    simp only [cmdReleaseSlot]
    split_ifs
    · exact h
    · exact h.resize rfl List.length_set rfl rfl
  lockFuse s g h := by
    unfold cmdLockFuse
    split
    · exact h
    · rename_i x _
      cases x <;> exact ⟨h.rules, h.slots, h.key, h.keyFuses, h.profileFuses, h.fenceFuses⟩
  addFuses s g k d h := by
    cases g
    case key => exact { h with keyFuses := (length_addBits ..).trans h.keyFuses }
    case profile => exact { h with profileFuses := (length_addBits ..).trans h.profileFuses }
    case fence => exact { h with fenceFuses := (length_addBits ..).trans h.fenceFuses }
  subTick s n h := ⟨h.rules, h.slots, h.key, h.keyFuses, h.profileFuses, h.fenceFuses⟩
  softReset s h := ⟨h.rules, rfl, h.key, h.keyFuses, h.profileFuses, h.fenceFuses⟩

theorem unitSizes_kept : Kept State.UnitSizes :=
  unitSizes_unitLaw.kept fun _ h => ⟨h.rules, h.slots, h.key, h.keyFuses, h.profileFuses, h.fenceFuses⟩

theorem unitSizes_restarts : Restarts State.UnitSizes :=
  unitSizes_unitLaw.restarts
    (fun _ h => ⟨List.length_replicate, rfl, h.key, h.keyFuses, h.profileFuses, h.fenceFuses⟩)
    (fun s h => ⟨h.rules, h.slots, by simp [State.readFuses, h.keyFuses], h.keyFuses, h.profileFuses, h.fenceFuses⟩)

/-! ### The law of sizes -/

theorem State.sizeLaw_iff (s : State) :
    s.SizeLaw ↔ (s.UnitSizes ∧ s.ReadsFit) ∧ s.staging.entries.length = Config.entryCount := by
  constructor
  · rintro ⟨he, hr, hs, hl, hk, h1, h2, h3⟩
    exact ⟨⟨⟨hr, hs, hk, h1, h2, h3⟩, hl⟩, he⟩
  · rintro ⟨⟨⟨hr, hs, hk, h1, h2, h3⟩, hl⟩, he⟩
    exact ⟨he, hr, hs, hl, hk, h1, h2, h3⟩

/-- Settles O10: the sizes of the units, of the read queue and of the staging table are laws of their own. -/
theorem stepsKeepTheSizes : Obligations.StepsKeepTheSizes := by
  intro s t
  rw [State.sizeLaw_iff, State.sizeLaw_iff]
  have step : ∀ now t g g', g.entries.length = Config.entryCount → TableStep .all now t g g' →
      g'.entries.length = Config.entryCount := fun _ _ _ _ => TableStep.length_entries
  have kept := tableLaw_kept (unitSizes_kept.and readsFit_kept) step (fun _ _ _ _ => True.intro)
    (fun _ _ _ _ _ => True.intro) (fun _ _ _ _ => True.intro)
  exact kept.step ((unitSizes_restarts.and (laneLaw_restarts .step)).and (tableLaw_restarts step List.length_replicate))

end Sys2Proof.Machine
end

section
/-! SUPPORT. What an effect can do to the sequencer and the power controller (R60 to R81, R141 to R154): their changes, and for each operation that it makes such changes alone. -/

namespace Sys2Proof.Machine

/-- The sequencer and the power controller. -/
structure Drive where
  seq : Sequencer
  power : Power

def State.drive (s : State) : Drive := { seq := s.seq, power := s.power }

/-- What a statement reckons with: whether the conditions of `SleepLaw` hold where a change is made, and whether the
change may be one that leads to SLEEP. -/
structure DriveMode where
  strict : Prop
  sleeps : Prop

/-- A change of the sequencer or of the power controller, at a tick and under timing settings. -/
inductive DriveStep (m : DriveMode) (now : Tick) (t : TimingSettings) (d : Drive) : Drive → Prop
  | misses (l : List Nat) : DriveStep m now t d { d with seq := { d.seq with misses := l } }
  | fillAdded (n : Nat) : DriveStep m now t d { d with seq := { d.seq with fills := d.seq.fills ++ [{ sector := n, page := 0 }] } }
  | fillsDropped : DriveStep m now t d { d with seq := { d.seq with fills := [] } }
  | share (n : Nat) : DriveStep m now t d { d with seq := { d.seq with share := n } }
  | flashPolicy (p : FlashPolicy) : p.resumeSpacing ≤ 255 → DriveStep m now t d { d with seq := { d.seq with policy := p } }
  | request : m.sleeps → (m.strict → d.power.st = .drain) →
      DriveStep m now t d { d with seq := { d.seq with powerReq := some .sleep } }
  | noRequest : DriveStep m now t d { d with seq := { d.seq with powerReq := none } }
  | suspend (op : FlashOp) (n : Nat) : d.seq.st = .busy op → DriveStep m now t d { d with seq := { d.seq with
      st := .suspending { op with suspCount := n } (tickAfter now t.suspendLimit.toNat), deferred := none } }
  | defer (x : Tick) : ¬ d.seq.policy.resumeSpacing ≤ elapsed now x →
      DriveStep m now t d { d with seq := { d.seq with deferred := some (tickAfter x d.seq.policy.resumeSpacing) } }
  | undefer : DriveStep m now t d { d with seq := { d.seq with deferred := none } }
  | idle : DriveStep m now t d { d with seq := { d.seq with st := .idle } }
  | stalled : DriveStep m now t d { d with seq := { d.seq with st := .stalled } }
  | asleep : DriveStep m now t d { d with seq := { d.seq with st := .asleep } }
  | waking (n : Nat) : 0 < n → n < 256 → DriveStep m now t d { d with seq := { d.seq with st := .waking (tickAfter now n) } }
  | startupWait (r : Bool) : (m.strict → d.power.st = .starting) →
      DriveStep m now t d { d with seq := { d.seq with st := .startupWait (tickAfter now Config.startupLimit) r } }
  | reading (c : ReadClaim) : (∀ n p, c ≠ .fillPage n p) → DriveStep m now t d { d with seq := { d.seq with st := .reading c } }
  | fill (f : FillReq) (rest : List FillReq) : d.seq.fills = f :: rest → DriveStep m now t d { d with seq := { d.seq with
      fills := advanceFill f rest, st := .reading (.fillPage f.sector f.page) } }
  | start (op : OpStep) (limit : Half) : limit = t.programLimit ∨ limit = t.eraseLimit →
      DriveStep m now t d { d with seq := { d.seq with st := .busy (newOp op limit) } }
  | goesOn (op op' : FlashOp) (x : SeqState) : d.seq.st.operation? = some op → x.operation? = some op' →
      (∀ o u, x ≠ .suspending o u) → op'.busyTicks = op.busyTicks → op'.timeLimit = op.timeLimit →
      DriveStep m now t d { d with seq := { d.seq with st := x } }
  | powerPolicy (p : PowerPolicy) : DriveStep m now t d { d with power := { d.power with policy := p } }
  | pwrwarn (b : Bool) : DriveStep m now t d { d with power := { d.power with pwrwarn := b } }
  | power (x : PowerState) : x ≠ .sleep → x ≠ .drain → (m.strict → d.power.st ≠ .drain) →
      (m.strict → d.power.st = .starting → d.seq.st.inStartupWait = false) →
      DriveStep m now t d { d with power := { d.power with st := x } }
  | drain : d.power.st = .run → DriveStep m now t d { d with power := { d.power with
      st := .drain, drainExpiry := some (tickAfter now t.drainLimit.toNat) } }
  | drained (x : Option DrainResult) : (m.strict → d.seq.powerReq ≠ some .sleep) → d.power.st = .drain →
      DriveStep m now t d { d with power := { d.power with st := .run, drainExpiry := none, lastDrain := x } }
  | sleep (x : Option DrainResult) : m.sleeps → (m.strict → d.seq.powerReq ≠ some .sleep) → (m.strict → d.power.st = .drain) →
      DriveStep m now t d { d with power := { d.power with st := .sleep, drainExpiry := none, lastDrain := x } }
  | reset (x : SeqState) (p : Power) : x = .idle ∨ x = .stalled → p.st ≠ .sleep → p.st ≠ .drain →
      DriveStep m now t d { seq := { Sequencer.initial with st := x }, power := p }

/-- A property of the drive that each of its changes keeps, is kept by any number of them. -/
theorem DriveStep.keeps {m : DriveMode} {now : Tick} {t : TimingSettings} {T : Drive → Prop}
    (h : ∀ d d', T d → DriveStep m now t d d' → T d') {d d' : Drive} (p : Relation.ReflTransGen (DriveStep m now t) d d')
    (hd : T d) : T d' := by
  induction p with
  | refl => exact hd
  | tail _ hs ih => exact h _ _ ih hs

/-- The drive of `t` comes from that of `s` by changes of it. -/
abbrev State.DrivePath (m : DriveMode) : State → State → Prop := Leads (DriveStep m) State.drive

/-- And the timebase stays. -/
abbrev State.Drives (m : DriveMode) : State → State → Prop := Along (DriveStep m) State.drive

namespace State

variable {m : DriveMode} {s t u : State}

theorem drive_eq (hq : t.seq = s.seq) (hp : t.power = s.power) : t.drive = s.drive := by
  unfold drive
  rw [hq, hp]

theorem DrivePath.same (h : t.seq = s.seq ∧ t.power = s.power) : s.DrivePath m t := .of_eq (drive_eq h.1 h.2)

theorem Drives.same (h : t.time = s.time ∧ t.seq = s.seq ∧ t.power = s.power) : s.Drives m t :=
  .of_eq h.1 (drive_eq h.2.1 h.2.2)

theorem Drives.step (h : DriveStep m s.now s.time.timing s.drive t.drive) (ht : t.time = s.time) : s.Drives m t :=
  ⟨ht, .single h⟩

/-- A change of the drive, and nothing else that the drive and the timebase show. -/
theorem Drives.change {d : Drive} (h : DriveStep m s.now s.time.timing s.drive d)
    (e : t.time = s.time ∧ t.seq = d.seq ∧ t.power = d.power) : s.Drives m t := by
  obtain ⟨ht, hq, hp⟩ := e
  have hd : t.drive = d := by rw [drive, hq, hp]
  exact ⟨ht, .single (hd ▸ h)⟩

/-! ### Suspension, misses, waking -/

theorem decideSuspension_drives (s : State) : s.Drives m s.decideSuspension := by
  unfold decideSuspension
  split
  case h_1 op hb =>
    split_ifs with h1 h2 h3
    · exact .refl s
    · exact .step (.suspend op _ hb) (by simp)
    · exact .refl s
    · cases hr : op.lastResume with
      | none => simp [spacingPassed, hr] at h2
      | some x =>
        have hx : ¬ s.seq.policy.resumeSpacing ≤ elapsed s.now x := by simpa [spacingPassed, hr] using h2
        rw [spacingTick, hr]
        exact .step (.defer x hx) rfl
  case h_2 => exact .refl s

theorem missArrives_drives (s : State) (tag : Nat) : s.Drives m (s.missArrives tag) := by
  unfold missArrives
  split
  case h_1 op service e =>
    exact .step (.goesOn op op (.suspended op (service ++ [tag])) (by simp [drive, e, SeqState.operation?]) rfl nofun rfl rfl) rfl
  case h_2 =>
    have hm : s.Drives m (s.withSeq { s.seq with misses := s.seq.misses ++ [tag] }) := .step (.misses _) rfl
    exact hm.trans (decideSuspension_drives _)

theorem joinMiss_drives (s : State) (tag : Nat) : s.Drives m (s.joinMiss tag) :=
  (Drives.same (by simp)).trans (missArrives_drives (s.setStage tag .miss) tag)

theorem wakeReported_drives (s : State) : s.Drives m s.wakeReported := by
  unfold wakeReported
  split
  case isTrue h => exact .step (.power .run nofun nofun (fun _ => by simp [drive, h]) (fun _ => by simp [drive, h])) rfl
  case isFalse => exact .refl s

theorem wakeDelay_lt (s : State) : s.wakeDelay < 256 := BitVec.isLt _

theorem requestWake_drives (s : State) : s.Drives m s.requestWake := by
  have hn : s.Drives m ((s.issueBare .wake).setPowerReq none) := .step (.noRequest (d := s.drive)) (by simp)
  simp only [requestWake]
  split
  case isTrue =>
    split
    case isTrue =>
      have hi : s.Drives m ((((s.issueBare .wake).setPowerReq none).setSeqSt (.waking (tickAfter s.now s.wakeDelay))).setSeqSt
          .idle) := hn.trans (Drives.step .idle (by simp))
      exact hi.trans (wakeReported_drives _)
    case isFalse h => exact hn.trans (Drives.step (.waking _ (Nat.pos_of_ne_zero h) s.wakeDelay_lt) (by simp))
  case isFalse =>
    have hr : s.Drives m (s.setPowerReq none) := .step .noRequest rfl
    exact hr.trans (wakeReported_drives _)

/-- The part leaves SLEEP or SAFE. -/
theorem wakePart_drives (s : State) (h : m.strict → s.power.st = .sleep ∨ s.power.st = .safe) : s.Drives m s.wakePart := by
  have hw : s.Drives m (s.setPowerSt .waking) := by
    refine .step (.power .waking nofun nofun ?_ ?_) rfl
    · intro hm
      obtain e | e := h hm <;> simp [drive, e]
    · intro hm
      obtain e | e := h hm <;> simp [drive, e]
  exact hw.trans (requestWake_drives _)

/-! ### Reads -/

theorem resolveOverlay_drives (s : State) (tag : Nat) : s.Drives m (s.resolveOverlay tag) := by
  cases hr : s.readOf tag with
  | none => simpa [resolveOverlay, hr] using Along.refl s
  | some r =>
    obtain ⟨x, hx⟩ := Continues.total s tag r.req
    have hj : s.Drives m ((s.setStage tag .miss).missArrives tag) := s.joinMiss_drives tag
    rw [hx.resolveOverlay_eq hr]
    cases hx with
    | wakes _ _ _ hp => exact hj.trans (wakePart_drives _ fun _ => .inl (by simp [hp]))
    | miss => exact hj
    | _ => exact .same (by simp)

theorem resolveHazard_drives (s : State) (tag : Nat) : s.Drives m (s.resolveHazard tag) := by
  unfold resolveHazard
  split
  case h_1 => exact .refl s
  case h_2 =>
    split
    case isTrue => exact .same (by simp)
    case isFalse => exact s.resolveOverlay_drives tag

theorem missComplete_drive (s : State) (tag : Nat) (bytes : List Byte) :
    (s.missComplete tag bytes).seq = s.seq ∧ (s.missComplete tag bytes).power = s.power := by
  unfold missComplete resolveEntry
  repeat' split
  all_goals simp

theorem resolveAfresh_drives (s : State) (p : Read → Bool) : s.Drives m (s.resolveAfresh p) :=
  Along.foldl (fun x => x.resolveHazard_drives) _ s

theorem endOverlay_drives (s : State) : s.Drives m s.endOverlay := by
  unfold endOverlay
  split
  case h_1 => exact .refl s
  case h_2 => exact (Drives.same (by simp)).trans (resolveAfresh_drives _ _)

theorem overlayWritten_drives (s : State) (line : Addr) : s.Drives m (s.overlayWritten line) := by
  unfold overlayWritten
  split
  case h_1 => exact .refl s
  case h_2 =>
    split
    case isTrue => exact s.endOverlay_drives
    case isFalse => exact .refl s

theorem overlayExpired_drives (s : State) : s.Drives m s.overlayExpired := by
  unfold overlayExpired
  split
  case h_1 =>
    split
    case isTrue => exact s.endOverlay_drives
    case isFalse => exact .refl s
  case h_2 => exact .refl s

theorem releaseHazards_drives (s : State) : s.Drives m s.releaseHazards :=
  Along.foldl (fun x => x.resolveOverlay_drives) _ s

theorem decideRead_drives (s : State) (tag : Nat) (req : ReadReq) : s.Drives m (s.decideRead tag req) := by
  simp only [decideRead]
  split
  case isTrue => exact .same (by simp)
  case isFalse => exact (Drives.same (by simp)).trans (resolveHazard_drives _ tag)

theorem acceptRead_drives (s : State) (req : ReadReq) : s.Drives m (s.acceptRead req) := by
  simp only [acceptRead]
  split_ifs
  · exact .same (by simp)
  · exact (Drives.same (by simp)).trans (resolveHazard_drives _ _)
  · exact .same (by simp)
  · exact s.decideRead_drives _ req

theorem acceptNextRead_drives (s : State) : s.Drives m s.acceptNextRead := by
  unfold acceptNextRead
  split
  case h_1 => exact .refl s
  case h_2 => exact (Drives.same (by simp)).trans (acceptRead_drives _ _)

/-! ### Writes -/

theorem answerWrite_drives (s : State) (w : WriteInProgress) (work : Image) : s.Drives m (s.answerWrite w work) := by
  simp only [answerWrite]
  exact (Drives.same (by simp)).trans (overlayWritten_drives _ _)

theorem landWrite_drives (s : State) (w : WriteInProgress) (i : Nat) (e : Entry) : s.Drives m (s.landWrite w i e) := by
  unfold landWrite
  exact (Drives.same (by simp)).trans (answerWrite_drives _ w _)

theorem stageWrite_drives (s : State) (w : WriteInProgress) : s.Drives m (s.stageWrite w) := by
  obtain ⟨x, hx⟩ := Stages.total s w
  rw [hx.stageWrite_eq]
  cases hx with
  | merge i e => exact s.landWrite_drives w i e
  | allocate i =>
    have hf : s.Drives m (s.withSeq { s.seq with fills := s.seq.fills ++ [{ sector := sectorOf w.req.line, page := 0 }] }) :=
      .step (.fillAdded _) rfl
    exact hf.trans (landWrite_drives _ w i _)
  | faulted => exact .same (by simp)
  | _ => exact .same (by simp [heldFor])

theorem fenceStage_drives (s : State) (w : WriteInProgress) : s.Drives m (s.fenceStage w) := by
  obtain ⟨x, hx⟩ := Decides.total s w
  have hd : s.Drives m (s.decided w) := .same (by simp [decided])
  rw [hx.fenceStage_eq]
  cases hx with
  | noSpace => exact hd.trans (Drives.same (by simp [heldFor]))
  | strict q x _ _ _ _ hx =>
    rw [← hx.stageWrite_eq]
    exact (hd.trans (Drives.same (by simp))).trans (stageWrite_drives _ _)
  | plain x _ _ hx => exact hx.stageWrite_eq ▸ hd.trans (stageWrite_drives _ _)
  | _ => exact hd.trans (Drives.same (by simp))

theorem withdrawSleep_drives (s : State) : s.Drives m s.withdrawSleep := by
  unfold withdrawSleep
  split
  case isTrue => exact .step .noRequest rfl
  case isFalse => exact .refl s

theorem withdrawSleep_powerReq (s : State) : s.withdrawSleep.seq.powerReq ≠ some .sleep := by
  unfold withdrawSleep
  split
  case isTrue => exact nofun
  case isFalse h => exact h

theorem abandonDrain_drives (s : State) (reason : DrainReason) (h : s.power.st = .drain) :
    s.Drives m (s.abandonDrain reason) := by
  refine s.withdrawSleep_drives.trans (Drives.step ?_ (by simp [abandonDrain]))
  have e : (s.abandonDrain reason).drive =
      { s.withdrawSleep.drive with power := { s.withdrawSleep.drive.power with
        st := .run, drainExpiry := none, lastDrain := some { outcome := .failed reason, tick := s.now } } } := by
    simp [abandonDrain, drive]
  rw [e]
  exact .drained _ (fun _ => s.withdrawSleep_powerReq) (by simp [drive, h])

theorem powerStage_drives (s : State) (w : WriteInProgress) : s.Drives m (s.powerStage w) := by
  obtain ⟨x, hx⟩ := Admits.total s w
  rw [hx.powerStage_eq]
  cases hx with
  | run x _ hx => exact hx.fenceStage_eq ▸ s.fenceStage_drives w
  | drain x _ _ hx => exact hx.fenceStage_eq ▸ s.withdrawSleep_drives.trans (fenceStage_drives _ w)
  | abort x hp _ hx => exact hx.fenceStage_eq ▸ (s.abandonDrain_drives .activity hp).trans (fenceStage_drives _ w)
  | wakes hp => exact (s.wakePart_drives fun _ => .inl hp).trans (Drives.same (by simp [heldFor]))
  | waits => exact .same (by simp [heldFor])
  | refused => exact .same (by simp)
  | unconfigured => exact .same (by simp)

theorem releaseWrite_drives (s : State) : s.Drives m s.releaseWrite := by
  unfold releaseWrite
  split
  case h_1 => exact .refl s
  case h_2 w e =>
    split
    · exact s.fenceStage_drives w
    · exact s.stageWrite_drives w
    · exact s.stageWrite_drives w
    · exact .refl s

/-! ### Grants -/

theorem issueStep_drives (s : State) (d : Sector) (step : CommitStep) : s.Drives m (s.issueStep d step) := by
  cases step with
  | erase => exact .change (.start .erase s.time.timing.eraseLimit (.inr rfl)) (by simp [issueStep, drive])
  | program p => exact .change (.start (.program p) s.time.timing.programLimit (.inl rfl)) (by simp [issueStep, drive])
  | verify p => exact .change (.reading (.verify p) nofun) (by simp [issueStep, drive])

theorem startCommit_drives (s : State) (i : Nat) (rest : List Nat) : s.Drives m (s.startCommit i rest) := by
  unfold startCommit
  split
  case h_1 =>
    simp only
    split
    case h_1 step _ => exact (Drives.same (by simp)).trans (issueStep_drives _ _ step)
    case h_2 => exact .same (by simp)
  case h_2 => exact .same (by simp)

theorem grantCommit_drives (s : State) : s.Drives m s.grantCommit := by
  have hz : s.Drives m s.zeroShare := .step (.share 0) rfl
  simp only [grantCommit]
  split
  case h_1 =>
    split
    case h_1 => exact hz.trans (issueStep_drives _ _ _)
    case h_2 => exact hz
  case h_2 =>
    split
    case h_1 => exact hz
    case h_2 i rest _ => exact hz.trans (startCommit_drives _ i rest)

theorem grantMiss_drives (s : State) (tag : Nat) (rest : List Nat) : s.Drives m (s.grantMiss tag rest) := by
  have hs : s.Drives m s.countShare := .step (.share _) rfl
  have hm : s.countShare.Drives m (s.countShare.withSeq { s.countShare.seq with misses := rest }) := .step (.misses rest) rfl
  exact (hs.trans hm).trans (Drives.change (.reading (.miss tag) nofun) (by simp [grantMiss, drive]))

theorem grantFill_drives (s : State) (f : FillReq) (rest : List FillReq) (hf : s.seq.fills = f :: rest) :
    s.Drives m (s.grantFill f rest) := by
  have hs : s.Drives m s.countShare := .step (.share _) rfl
  exact hs.trans (Drives.change (.fill f rest hf) (by simp [grantFill, drive]))

/-- The drain completes in SLEEP (R143). -/
theorem enterSleep_drives (s : State) (hm : m.sleeps) (hr : m.strict → s.seq.powerReq ≠ some .sleep)
    (hd : m.strict → s.power.st = .drain) : s.Drives m s.enterSleep :=
  .step (.sleep _ hm hr hd) rfl

theorem grantSleep_drives (s : State) (hm : m.sleeps) : s.Drives m s.grantSleep := by
  have ha : s.Drives m (((s.issueBare .sleep).setPowerReq none).setSeqSt .asleep) :=
    (Drives.step (t := (s.issueBare .sleep).setPowerReq none) (.noRequest (d := s.drive)) (by simp)).trans
      (Drives.step .asleep (by simp))
  simp only [grantSleep]
  split
  case isTrue hd => exact ha.trans (enterSleep_drives _ hm (fun _ => nofun) fun _ => by simp [hd])
  case isFalse => exact ha

theorem grantNext_drives (s : State) (hm : m.sleeps) : s.Drives m s.grantNext := by
  unfold grantNext
  split
  case isTrue => exact s.grantCommit_drives
  case isFalse =>
    split
    case h_1 => exact s.grantMiss_drives _ _
    case h_2 e => exact s.grantFill_drives _ _ e
    case h_3 =>
      split
      case isTrue => exact s.grantCommit_drives
      case isFalse => exact s.grantSleep_drives hm

/-! ### Ends of operations -/

/-- What the staging controller is told leaves the drive as it is. -/
theorem endOperation_drives (s : State) : s.Drives m s.endOperation :=
  (Drives.step (t := s.clearDeferred) .undefer rfl).trans (Drives.step .idle rfl)

theorem completeOperation_drives (s : State) (op : FlashOp) (fail : Bool) : s.Drives m (s.completeOperation op fail) :=
  s.endOperation_drives.trans (Drives.same (by simp [completeOperation]))

theorem refuseMisses_drives (s : State) (reason : RefusalReason) : s.Drives m (s.refuseMisses reason) :=
  .change (.misses []) (by simp [refuseMisses, drive])

theorem timeoutOperation_drives (s : State) (op : FlashOp) : s.Drives m (s.timeoutOperation op) := by
  have hs : s.Drives m (s.withSeq { s.seq with st := .stalled, deferred := none }) :=
    (Drives.step (t := s.clearDeferred) .undefer rfl).trans (Drives.step .stalled rfl)
  exact (hs.trans (Drives.same (by simp))).trans (refuseMisses_drives _ _)

theorem resume_drives (s : State) (op op' : FlashOp) (h : s.seq.st.operation? = some op') (hb : op.busyTicks = op'.busyTicks)
    (hl : op.timeLimit = op'.timeLimit) : s.Drives m (s.resume op) :=
  (Drives.same (by simp)).trans (Drives.step (t := (s.issueBare .resume).setSeqSt _)
    (.goesOn op' { op with lastResume := some s.now } (.resuming _) (by simpa [drive] using h) rfl nofun hb hl) (by simp))

theorem serveNext_drives (s : State) (op : FlashOp) (service : List Nat) (h : s.seq.st.operation? = some op) :
    s.Drives m (s.serveNext op service) := by
  cases service with
  | nil => exact s.resume_drives op op h rfl rfl
  | cons tag rest =>
    exact (Drives.same (by simp)).trans (Drives.step (t := (s.issueMissRead tag).setSeqSt _)
      (.goesOn op op (.suspended op (tag :: rest)) (by simpa [drive] using h) rfl nofun rfl rfl) (by simp))

theorem suspensionDone_drives (s : State) (op : FlashOp) (h : s.seq.st.operation? = some op) :
    s.Drives m (s.suspensionDone op) :=
  (Drives.step (t := s.withSeq { s.seq with misses := [] }) (.misses []) rfl).trans (serveNext_drives _ op _ h)

theorem completeRead_drives (s : State) (bytes : List Byte) : s.Drives m (s.completeRead bytes) := by
  have hi : s.Drives m (s.setSeqSt .idle) := .step .idle rfl
  unfold completeRead
  split
  case h_1 =>
    split
    case isTrue => exact hi.trans (Drives.same ⟨by simp, missComplete_drive ..⟩)
    case isFalse => exact .refl s
  case h_2 =>
    split
    case isTrue => exact hi.trans (Drives.same (by simp))
    case isFalse => exact .refl s
  case h_3 =>
    split
    case isTrue => exact hi.trans (Drives.same (by simp))
    case isFalse => exact .refl s
  case h_4 op tag rest e =>
    split
    case isTrue =>
      have hm := s.missComplete_drive tag bytes
      exact (Drives.same ⟨by simp, hm⟩).trans (serveNext_drives _ op rest (by rw [hm.1, e]; rfl))
    case isFalse => exact .refl s
  case h_5 => exact .refl s

theorem pollStatus_drives (s : State) (st : Byte) : s.Drives m (s.pollStatus st) := by
  have hi : s.Drives m s.issueStatus := .same (by simp)
  unfold pollStatus
  split
  case h_1 =>
    split
    case h_1 => exact hi.trans (completeOperation_drives _ _ _)
    case h_2 => exact hi
    case h_3 => exact hi
  case h_2 op _ e =>
    split
    case h_1 => exact hi.trans (completeOperation_drives _ _ _)
    case h_2 => exact hi.trans (suspensionDone_drives _ op (by simp [e, SeqState.operation?]))
    case h_3 => exact hi
  case h_3 op e =>
    split
    case h_1 => exact hi.trans (completeOperation_drives _ _ _)
    case h_2 => exact hi
    case h_3 =>
      have hb : s.issueStatus.Drives m (s.issueStatus.setSeqSt (.busy op)) :=
        .step (.goesOn op op (.busy op) (by simp [drive, e, SeqState.operation?]) rfl nofun rfl rfl) (by simp)
      exact (hi.trans hb).trans (decideSuspension_drives _)
  case h_4 => exact .refl s

theorem suspendLimit_drives (s : State) (st : Byte) : s.Drives m (s.suspendLimit st) := by
  have hi : s.Drives m s.issueStatus := .same (by simp)
  unfold suspendLimit
  split
  case h_1 =>
    simp only
    split_ifs
    · exact hi.trans (completeOperation_drives _ _ _)
    · exact hi.trans (timeoutOperation_drives _ _)
    · exact .refl s
  case h_2 => exact .refl s

theorem timeLimit_drives (s : State) : s.Drives m s.timeLimit := by
  unfold timeLimit
  split
  case h_1 =>
    split
    case isTrue => exact s.timeoutOperation_drives _
    case isFalse => exact .refl s
  case h_2 => exact .refl s

theorem deferredDue_drives (s : State) : s.Drives m s.deferredDue := by
  unfold deferredDue
  split
  case isTrue => exact (Drives.step (t := s.clearDeferred) .undefer rfl).trans (decideSuspension_drives _)
  case isFalse => exact .refl s

/-! ### Power -/

theorem completeDrain_drives (s : State) (hm : m.sleeps) (h : s.drainDue = true) : s.Drives m s.completeDrain := by
  simp only [drainDue, Bool.and_eq_true, decide_eq_true_eq] at h
  obtain ⟨⟨⟨hd, hr⟩, -⟩, -⟩ := h
  unfold completeDrain
  split
  case isTrue => exact .step (.request hm fun _ => hd) rfl
  case isFalse => exact s.enterSleep_drives hm (fun _ => hr) fun _ => hd

theorem drainExpired_drives (s : State) : s.Drives m s.drainExpired := by
  unfold drainExpired
  split
  case isTrue h => exact s.abandonDrain_drives _ h.1
  case isFalse => exact .refl s

/-- The part leaves a power state other than STARTING and DRAIN. -/
theorem setPowerSt_drives (s : State) {x : PowerState} (hx : x ≠ .sleep) (hd : x ≠ .drain) (h1 : s.power.st ≠ .starting)
    (h2 : s.power.st ≠ .drain) : s.Drives m (s.setPowerSt x) :=
  .step (.power x hx hd (fun _ => h2) fun _ h => absurd h h1) rfl

theorem enterSafe_drives (s : State) (h1 : s.power.st ≠ .starting) (h2 : s.power.st ≠ .drain) : s.Drives m s.enterSafe := by
  have hs : s.Drives m ((s.setPowerSt .safe).raise .safeReached) :=
    (s.setPowerSt_drives (x := .safe) nofun nofun h1 h2).trans (Drives.same (by simp))
  simp only [enterSafe]
  split
  case isTrue => exact hs.trans (refuseMisses_drives _ _)
  case isFalse => exact hs

theorem enterEmergency_drives (s : State) (h1 : s.power.st ≠ .starting) (h2 : s.power.st ≠ .drain) :
    s.Drives m s.enterEmergency :=
  (s.setPowerSt_drives (x := .emergency) nofun nofun h1 h2).trans (Drives.same (by simp [enterEmergency, refuseHeld_frame]))

theorem takeAssertion_drives (s : State) : s.Drives m s.takeAssertion := by
  have hr : s.Drives m (s.raise .powerWarning) := .same (by simp)
  unfold takeAssertion
  split
  case h_1 => exact .refl s
  case h_2 => exact hr
  case h_3 e => exact hr.trans (enterEmergency_drives _ (by rw [raise_power, e]; nofun) (by rw [raise_power, e]; nofun))
  case h_4 e => exact hr.trans (enterEmergency_drives _ (by rw [raise_power, e]; nofun) (by rw [raise_power, e]; nofun))
  case h_5 e =>
    have ha := abandonDrain_drives (m := m) (s.raise .powerWarning) .power e
    exact (hr.trans ha).trans (enterEmergency_drives _ (by simp [abandonDrain]) (by simp [abandonDrain]))
  case h_6 e => exact hr.trans (enterSafe_drives _ (by simp [e]) (by simp [e]))
  case h_7 => exact hr
  case h_8 => exact hr

theorem pwrwarnHigh_drives (s : State) : s.Drives m s.pwrwarnHigh := by
  unfold pwrwarnHigh
  split
  case isTrue => exact .refl s
  case isFalse => exact (Drives.step (t := s.setPwrwarn true) (.pwrwarn true) rfl).trans (takeAssertion_drives _)

theorem pwrwarnLow_drives (s : State) : s.Drives m s.pwrwarnLow := by
  have hl : s.Drives m (s.setPwrwarn false) := .step (.pwrwarn false) rfl
  unfold pwrwarnLow
  split
  case isTrue =>
    simp only
    split
    case h_1 e => exact hl.trans (setPowerSt_drives _ nofun nofun (by simp [e]) (by simp [e]))
    case h_2 e =>
      split
      case isTrue => exact hl.trans (wakePart_drives _ fun _ => .inr e)
      case isFalse => exact hl.trans (setPowerSt_drives _ nofun nofun (by simp [e]) (by simp [e]))
    case h_3 => exact hl
  case isFalse => exact .refl s

/-! ### Start-up and soft reset -/

/-- Start-up ends from STARTING, in IDLE or STALLED. -/
theorem endStartup_drives (s : State) {x : SeqState} (hx : x = .idle ∨ x = .stalled) (h : m.strict → s.power.st = .starting) :
    s.Drives m (s.endStartup x) := by
  have hq : s.Drives m (s.setSeqSt x) := by
    obtain rfl | rfl := hx
    · exact .step .idle rfl
    · exact .step .stalled rfl
  have hp : (s.setSeqSt x).Drives m (((s.setSeqSt x).setPowerSt .run).setLanes true) := by
    refine .step (.power .run nofun nofun (fun hm => ?_) fun _ _ => ?_) rfl
    · simp [drive, h hm]
    · obtain rfl | rfl := hx <;> rfl
  simp only [endStartup]
  split
  case isTrue => exact (hq.trans hp).trans (takeAssertion_drives _)
  case isFalse => exact hq.trans hp

theorem resumeStartup_drives (s : State) (h : m.strict → s.power.st = .starting) : s.Drives m s.resumeStartup :=
  .change (.startupWait true h) (by simp [resumeStartup, drive])

theorem firstStatus_drives (s : State) (st : Byte) (h : m.strict → s.power.st = .starting) : s.Drives m (s.firstStatus st) := by
  have hi : s.Drives m s.issueStatus := .same (by simp)
  simp only [firstStatus]
  split
  case h_1 => exact hi.trans (endStartup_drives _ (.inl rfl) (by simpa using h))
  case h_2 => exact hi.trans (Drives.step (.startupWait false (by simpa [drive] using h)) (by simp))
  case h_3 => exact hi.trans (resumeStartup_drives _ (by simpa using h))

theorem wakeEndDue_drives (s : State) (st : Byte) : s.Drives m (s.wakeEndDue st) := by
  unfold wakeEndDue wakeEnded
  split
  case h_1 =>
    split_ifs with _ hp
    · exact s.firstStatus_drives st fun _ => hp
    · exact (Drives.step (t := s.setSeqSt .idle) .idle rfl).trans (wakeReported_drives _)
    · exact .refl s
  case h_2 => exact .refl s

theorem tickPoll_drives (s : State) (st : Byte) (h : m.strict → s.seq.st.inStartupWait = true → s.power.st = .starting) :
    s.Drives m (s.tickPoll st) := by
  have hi : s.Drives m s.issueStatus := .same (by simp)
  unfold tickPoll
  split
  case h_1 =>
    simp only [stallPoll]
    split
    case h_1 => exact hi.trans (Drives.step .idle (by simp))
    case h_2 => exact hi
    case h_3 => exact hi.trans (Drives.same (by simp))
  case h_2 e =>
    have hp : m.strict → s.issueStatus.power.st = .starting := fun hm => by simpa using h hm (by rw [e]; rfl)
    simp only [startupPoll]
    split
    case h_1 => exact hi.trans (endStartup_drives _ (.inl rfl) hp)
    case h_2 => exact hi
    case h_3 =>
      split
      case isTrue => exact hi
      case isFalse => exact hi.trans (resumeStartup_drives _ hp)
  case h_3 => exact .refl s

theorem startupLimitDue_drives (s : State) (h : m.strict → s.seq.st.inStartupWait = true → s.power.st = .starting) :
    s.Drives m s.startupLimitDue := by
  unfold startupLimitDue
  split
  case h_1 e =>
    split
    case isTrue =>
      exact (Drives.same (by simp)).trans (endStartup_drives (s.raise .flashStall) (.inr rfl) fun hm => h hm (by rw [e]; rfl))
    case isFalse => exact .refl s
  case h_2 => exact .refl s

/-- A power warning taken in RUN or UNCONFIGURED leaves the sequencer, and a power state other than SLEEP and DRAIN (R148). -/
theorem takeAssertion_drive_of (s : State) (h : s.power.st = .run ∨ s.power.st = .unconfigured) :
    s.takeAssertion.seq = s.seq ∧ s.takeAssertion.power.st ≠ .sleep ∧ s.takeAssertion.power.st ≠ .drain := by
  obtain e | e := h
  · have ht : s.takeAssertion = (s.raise .powerWarning).enterEmergency := by unfold takeAssertion; rw [e]
    simp [ht, enterEmergency, refuseHeld_frame]
  · have ht : s.takeAssertion = s.raise .powerWarning := by unfold takeAssertion; rw [e]
    simp [ht, e]

/-- A reset of the sequencer and the power controller, with the power warning it may meet (R176). -/
theorem softResetEffect_drives (s : State) : s.DrivePath m s.softResetEffect := by
  have reset (x : State) (hq : x.seq = s.answerControl.softResetValues.seq) (h1 : x.power.st ≠ .sleep)
      (h2 : x.power.st ≠ .drain) : s.DrivePath m x := by
    have hx : x.drive = { seq := s.answerControl.softResetValues.seq, power := x.power } := by rw [drive, hq]
    unfold DrivePath Leads
    rw [hx]
    refine .single (.reset _ _ ?_ h1 h2)
    split <;> simp
  have hp : s.answerControl.softResetValues.power.st = .run ∨ s.answerControl.softResetValues.power.st = .unconfigured := by
    simp only [softResetValues]
    split <;> simp
  have calm (x : State) (hx : x.seq = s.answerControl.softResetValues.seq ∧ x.power = s.answerControl.softResetValues.power) :
      s.DrivePath m x := by
    refine reset x hx.1 ?_ ?_ <;> rw [hx.2] <;> obtain e | e := hp <;> rw [e] <;> nofun
  have warned (x : State) (hx : x.seq = s.answerControl.softResetValues.seq ∧ x.power = s.answerControl.softResetValues.power) :
      s.DrivePath m x.takeAssertion := by
    obtain ⟨ht, h1, h2⟩ := x.takeAssertion_drive_of (by rw [hx.2]; exact hp)
    exact reset _ (ht.trans hx.1) h1 h2
  simp only [softResetEffect]
  split_ifs
  · exact warned _ ⟨rfl, rfl⟩
  · exact calm _ ⟨rfl, rfl⟩
  · exact warned _ ⟨rfl, rfl⟩
  · exact calm _ ⟨rfl, rfl⟩

/-- The sequencer's queued claims and requests are removed (R80). -/
def dropClaims (s : State) : State :=
  s.withSeq { s.seq with misses := [], fills := [], powerReq := none, share := 0, deferred := none }

theorem dropClaims_drives (s : State) : s.Drives m s.dropClaims := by
  have h1 : s.Drives m (s.withSeq { s.seq with misses := [] }) := .step (.misses []) rfl
  have h2 := h1.trans (Drives.step (t := s.withSeq { s.seq with misses := [], fills := [] }) .fillsDropped rfl)
  have h3 := h2.trans (Drives.step (t := s.withSeq { s.seq with misses := [], fills := [], powerReq := none }) .noRequest rfl)
  have h4 := h3.trans
    (Drives.step (t := s.withSeq { s.seq with misses := [], fills := [], powerReq := none, share := 0 }) (.share 0) rfl)
  exact h4.trans (Drives.step .undefer rfl)

theorem endDrainQuietly_dropClaims (s : State) : s.endDrainQuietly.dropClaims = s.dropClaims.endDrainQuietly := by
  by_cases h : s.power.st = .drain
  case pos =>
    simp only [endDrainQuietly, dropClaims, withSeq_power, h, if_true]
    rfl
  case neg => simp only [endDrainQuietly, dropClaims, withSeq_power, h, if_false]

theorem endDrainQuietly_drives (s : State) (h : s.seq.powerReq = none) : s.Drives m s.endDrainQuietly := by
  unfold endDrainQuietly
  split
  case isTrue hd => exact .change (.drained s.power.lastDrain (fun _ => by simp [drive, h]) hd) (by simp [drive])
  case isFalse => exact .refl s

theorem resetSequencer_drives (s : State) {x : State} (h : x.Drives m s.dropClaims) : x.Drives m s.resetSequencer := by
  simp only [resetSequencer]
  split
  case h_1 op service e =>
    exact h.trans (Drives.change (.goesOn op op (.suspended op (service.take 1)) (by simp [drive, dropClaims, e, SeqState.operation?])
      rfl nofun rfl rfl) (by simp [drive, dropClaims]))
  case h_2 => exact h.trans (requestWake_drives _)
  case h_3 => exact h

theorem acceptSoftReset_drives (s : State) : s.Drives m s.acceptSoftReset := by
  have ha : s.Drives m ((s.setLanes false).withControl { s.control with softReset := true }).answerAll := .same (by simp)
  simp only [acceptSoftReset]
  refine ha.trans (resetSequencer_drives _ ?_)
  rw [endDrainQuietly_dropClaims]
  exact (dropClaims_drives _).trans (endDrainQuietly_drives _ rfl)

/-! ### Control records -/

theorem policyOf_resumeSpacing {a : PolicyArgs} {p : FlashPolicy} (h : policyOf a = some p) : p.resumeSpacing ≤ 255 := by
  unfold policyOf at h
  split at h
  case h_1 =>
    split at h
    case isTrue => cases h
    case isFalse =>
      cases h
      exact Nat.le_of_lt_succ a.resumeSpacing.isLt
  case h_2 => cases h

theorem cmdSetFlashPolicy_drives (s : State) (a : PolicyArgs) : s.DrivePath m (cmdSetFlashPolicy a s).1 := by
  unfold cmdSetFlashPolicy
  split
  case h_1 => exact (Along.refl s).path
  case h_2 p hp => exact .single (.flashPolicy p (policyOf_resumeSpacing hp))

theorem cmdSetPowerPolicy_drives (s : State) (x y z : Byte) : s.DrivePath m (cmdSetPowerPolicy x y z s).1 := by
  unfold cmdSetPowerPolicy
  split
  case h_1 => exact .single (.powerPolicy _)
  case h_2 => exact (Along.refl s).path

theorem cmdSleep_drives (s : State) : s.DrivePath m (cmdSleep s).1 := by
  unfold cmdSleep
  split
  case isTrue h => exact .single (.drain h)
  case isFalse => exact (Along.refl s).path

theorem cmdWake_drives (s : State) : s.DrivePath m (cmdWake s).1 := by
  unfold cmdWake
  split
  case h_1 h => exact (s.wakePart_drives fun _ => .inl h).path
  all_goals exact (Along.refl s).path

theorem cmdFaultDiscard_drives (s : State) (n : Half) : s.DrivePath m (cmdFaultDiscard n s).1 := by
  unfold cmdFaultDiscard
  split_ifs
  · exact (Along.refl s).path
  · split
    · exact (Along.refl s).path
    · split
      case h_1 => exact ((Drives.same (by simp)).trans (resolveAfresh_drives _ _)).path
      case h_2 => exact (Along.refl s).path

theorem awaitReset_frame (s : State) : s.awaitReset.time = s.time ∧ s.awaitReset.seq = s.seq ∧ s.awaitReset.power = s.power := by
  unfold awaitReset
  split <;> simp

theorem cmdSoftReset_drives (s : State) (x : Byte) : s.DrivePath m (cmdSoftReset x s).1 := by
  unfold cmdSoftReset
  split
  case h_1 => exact (Along.refl s).path
  case h_2 =>
    split
    case isTrue => exact (Along.refl s).path
    case isFalse => exact ((Drives.same s.awaitReset_frame).trans (acceptSoftReset_drives _)).path

theorem execCode_drives (s : State) (room : Nat) (code : Byte) (a : List Byte) :
    s.DrivePath m (execCode room code a s).1 := by
  unfold execCode
  split
  case h_3 => exact s.cmdSoftReset_drives _
  case h_20 => exact s.cmdFaultDiscard_drives _
  case h_21 => exact s.cmdSetFlashPolicy_drives _
  case h_22 => exact s.cmdSleep_drives
  case h_23 => exact s.cmdWake_drives
  case h_24 => exact s.cmdSetPowerPolicy_drives _ _ _
  all_goals exact .same (by simp)

theorem finishCommand_drive (code : Byte) (r : CommandResult) : (finishCommand code r).drive = r.1.drive :=
  drive_eq (by simp) (by simp)

theorem consumeRecord_drives (s : State) (w : WriteInProgress) (bs : List Byte) : s.DrivePath m (s.consumeRecord w bs) := by
  have he : s.Drives m ((s.setWrite (some { w with hold := none, stage := .control })).endOverlay) :=
    (Drives.same (by simp)).trans (endOverlay_drives _)
  simp only [consumeRecord]
  refine he.trans_path ?_
  unfold Leads
  rw [finishCommand_drive]
  exact execCode_drives _ _ _ _

theorem recognise_drives (s : State) (w : WriteInProgress) : s.DrivePath m (s.recognise w) := by
  unfold recognise
  split
  case isTrue =>
    split
    case h_1 =>
      split
      case isTrue => exact s.consumeRecord_drives w _
      case isFalse => exact ((Drives.same (by simp)).trans (powerStage_drives (s.raise .controlCheckFailed) w)).path
    case h_2 => exact (s.powerStage_drives w).path
  case isFalse => exact (s.powerStage_drives w).path

theorem acceptWrite_drives (s : State) (req : WriteReq) : s.DrivePath m (s.acceptWrite req) := by
  simp only [acceptWrite]
  split
  case isTrue => exact .same (by simp)
  case isFalse => exact (Drives.same (by simp)).trans_path (recognise_drives _ _)

theorem acceptNextWrite_drives (s : State) : s.DrivePath m s.acceptNextWrite := by
  unfold acceptNextWrite
  split
  case h_1 => exact (Along.refl s).path
  case h_2 => exact (Drives.same (by simp)).trans_path (acceptWrite_drives _ _)

end State

/-! ### Laws of the drive -/

/-- A law of the sequencer and the power controller that each of their changes keeps in a part of the law `Q`, beside this law. -/
theorem driveLaw_steady {m : DriveMode} {Q : State → Prop} {T : Drive → Prop} (q : Steady Q) (hm : m.sleeps)
    (h : ∀ s, Q s → ∀ d d', T d → DriveStep m s.now s.time.timing d d' → T d')
    (startup : m.strict → ∀ d, T d → d.seq.st.inStartupWait = true → d.power.st = .starting) :
    Steady fun s => Q s ∧ T s.drive := by
  have path {s t : State} (p : s.DrivePath m t) (hs : Q s ∧ T s.drive) : T t.drive := DriveStep.keeps (h s hs.1) p hs.2
  have moves {s t : State} (p : s.Drives m t) (hs : Q s ∧ T s.drive) : T t.drive := path p.path hs
  have same {s t : State} (e : t.seq = s.seq ∧ t.power = s.power) (hs : T s.drive) : T t.drive :=
    State.drive_eq e.1 e.2 ▸ hs
  exact {
    clearOut := fun s hs => ⟨q.clearOut s hs.1, same ⟨rfl, rfl⟩ hs.2⟩
    pending := fun s x hs => ⟨q.pending s x hs.1, same ⟨rfl, rfl⟩ hs.2⟩
    guard := fun s g hs => ⟨q.guard s g hs.1, same ⟨rfl, rfl⟩ hs.2⟩
    presentRead := fun s line o n hs => ⟨q.presentRead s line o n hs.1, same ⟨rfl, rfl⟩ hs.2⟩
    presentWrite := fun s req hs => ⟨q.presentWrite s req hs.1, same ⟨rfl, rfl⟩ hs.2⟩
    softReset := fun s hs c => ⟨q.softReset s hs.1 c, path s.softResetEffect_drives hs⟩
    release := fun s hs c => ⟨q.release s hs.1 c, moves s.releaseWrite_drives hs⟩
    hazards := fun s hs => ⟨q.hazards s hs.1, moves s.releaseHazards_drives hs⟩
    withdraw := fun s hs => ⟨q.withdraw s hs.1, moves s.withdrawSleep_drives hs⟩
    grant := fun s hs c => ⟨q.grant s hs.1 c, moves (s.grantNext_drives hm) hs⟩
    answer := fun s hs c => ⟨q.answer s hs.1 c, same (by simp) hs.2⟩
    drain := fun s hs c => ⟨q.drain s hs.1 c, moves (s.completeDrain_drives hm c) hs⟩
    safe := fun s hs c => by
      have e : s.power.st = .emergency := by
        simp only [State.safeDue, Bool.and_eq_true, decide_eq_true_eq] at c
        exact c.1
      exact ⟨q.safe s hs.1 c, moves (s.enterSafe_drives (by simp [e]) (by simp [e])) hs⟩
    reply := fun s hs c => ⟨q.reply s hs.1 c, same (by simp) hs.2⟩
    read := fun s hs c => ⟨q.read s hs.1 c, moves s.acceptNextRead_drives hs⟩
    write := fun s hs c => ⟨q.write s hs.1 c, path s.acceptNextWrite_drives hs⟩
    completeRead := fun s bytes hs => ⟨q.completeRead s bytes hs.1, moves (s.completeRead_drives bytes) hs⟩
    pollStatus := fun s st hs => ⟨q.pollStatus s st hs.1, moves (s.pollStatus_drives st) hs⟩
    deferred := fun s hs => ⟨q.deferred s hs.1, moves s.deferredDue_drives hs⟩
    suspendLimit := fun s st hs => ⟨q.suspendLimit s st hs.1, moves (s.suspendLimit_drives st) hs⟩
    timeLimit := fun s hs => ⟨q.timeLimit s hs.1, moves s.timeLimit_drives hs⟩
    wakeEnd := fun s st hs => ⟨q.wakeEnd s st hs.1, moves (s.wakeEndDue_drives st) hs⟩
    startupLimit := fun s hs => ⟨q.startupLimit s hs.1, moves (s.startupLimitDue_drives fun hs' => startup hs' _ hs.2) hs⟩
    hold := fun s hs => ⟨q.hold s hs.1, same (by simp) hs.2⟩
    idle := fun s i hs => ⟨q.idle s i hs.1, same (by simp) hs.2⟩
    age := fun s i hs => ⟨q.age s i hs.1, same (by simp) hs.2⟩
    stale := fun s n hs => ⟨q.stale s n hs.1, same (by simp) hs.2⟩
    drainExpired := fun s hs => ⟨q.drainExpired s hs.1, moves s.drainExpired_drives hs⟩
    overlay := fun s hs => ⟨q.overlay s hs.1, moves s.overlayExpired_drives hs⟩
    tickPoll := fun s st hs => ⟨q.tickPoll s st hs.1, moves (s.tickPoll_drives st fun hs' => startup hs' _ hs.2) hs⟩
    subTick := fun s n hs => ⟨q.subTick s n hs.1, same ⟨rfl, rfl⟩ hs.2⟩
    draw := fun s hs => ⟨q.draw s hs.1, same ⟨rfl, rfl⟩ hs.2⟩
    fuses := fun s failed hs => ⟨q.fuses s failed hs.1,
      same (by simp only [State.completeFuses]; (repeat' split) <;> simp) hs.2⟩
    high := fun s hs => ⟨q.high s hs.1, moves s.pwrwarnHigh_drives hs⟩
    low := fun s hs => ⟨q.low s hs.1, moves s.pwrwarnLow_drives hs⟩ }

/-- A law of the sequencer and the power controller that each of their changes keeps. -/
theorem driveLaw_kept {m : DriveMode} {T : Drive → Prop} (hm : m.sleeps)
    (h : ∀ now t d d', T d → DriveStep m now t d d' → T d')
    (startup : m.strict → ∀ d, T d → d.seq.st.inStartupWait = true → d.power.st = .starting)
    (grow : ∀ d, T d → T { d with seq := { d.seq with st := d.seq.st.grow } }) : Kept fun s => T s.drive := by
  have steady := driveLaw_steady .trivial hm (fun _ _ => h _ _) startup
  simp only [true_and] at steady
  exact steady.kept fun s => grow s.drive

/-- A law of the drive outlives a restart where the power-on values meet it, and the first wake of start-up. -/
theorem driveLaw_restarts {m : DriveMode} {T : Drive → Prop} (h : ∀ now t d d', T d → DriveStep m now t d d' → T d')
    (off : ∀ p : Power, p.st = .starting → T { seq := Sequencer.initial, power := p })
    (unconfigured : ∀ p : Power, p.st = .unconfigured → T { seq := Sequencer.initial, power := p })
    (waking : ∀ (p : Power) u, p.st = .starting → T { seq := { Sequencer.initial with st := .waking u }, power := p }) :
    Restarts fun s => T s.drive where
  tear s hs := by
    obtain ⟨-, hq, -, hp, -⟩ := tearFuses_blocks s
    exact State.drive_eq hq hp ▸ hs
  powered _ _ hs := hs
  resetHeld _ _ hs := hs
  powerOn _ _ := off _ rfl
  startUp s st _ := by
    simp only [State.startUp]
    split
    case h_1 => exact unconfigured _ rfl
    case h_2 => exact DriveStep.keeps (h _ _) (State.wakeEndDue_drives _ st).path (waking _ _ rfl)

end Sys2Proof.Machine
end

section
/-! SUPPORT. The staging law (R1 to R4, R37, R38): what each change of an entry and of the table keeps of it. -/

namespace Sys2Proof.Machine

/-! ### Images -/

/-- FFH written past the images' offsets or within them leaves an image canonical. -/
theorem imgWfFrom_imgWrite_blank : ∀ {img : Image} {lo : Nat} (k : Nat), imgWfFrom lo img = true →
    imgWfFrom lo (imgWrite img k 0xFF) = true
  | [], _, _, _ => rfl
  | (a, b) :: r, lo, k, h => by
    have hr := h
    simp only [imgWfFrom, Bool.and_eq_true] at hr
    obtain ⟨⟨⟨h1, h2⟩, h3⟩, h4⟩ := hr
    rw [imgWrite, if_pos rfl, if_pos rfl]
    split_ifs
    · exact h
    · exact imgWfFrom_mono (by have := of_decide_eq_true h1; omega) h4
    · simp only [imgWfFrom, Bool.and_eq_true]
      exact ⟨⟨⟨h1, h2⟩, h3⟩, imgWfFrom_imgWrite_blank k h4⟩

/-- Bytes taken from a canonical image at any offsets leave an image canonical: past its end the image reads FFH. -/
theorem wf_filledWork_of_work {d : Sector} (hb : Memory.wf d.base = true) (hw : Memory.wf d.work = true) (l : List Nat) :
    Memory.wf (filledWork d l) = true := by
  have step (img : Image) (h : Memory.wf img = true) (k : Nat) : Memory.wf (imgWrite img k (imgRead d.work k)) = true := by
    by_cases hk : k < Config.sectorBytes
    case pos => exact wf_imgWrite h hk
    case neg =>
      have hff : imgRead d.work k = 0xFF := by
        by_contra hne
        obtain ⟨c, hc, rfl⟩ := (imgRead_ne_iff_mem hw).mp hne
        exact hk (imgWf_bound hw hc).2
      rw [hff]
      exact imgWfFrom_imgWrite_blank k h
  unfold filledWork
  generalize d.base = img at hb
  induction l generalizing img with
  | nil => exact hb
  | cons k l ih => exact ih _ (step _ hb k)

/-! ### Entries -/

/-- The images of an entry are canonical, and equal in a CLEAN one (R3). -/
structure Entry.Lawful (e : Entry) : Prop where
  images : ∀ d, e.data? = some d → Memory.wf d.base = true ∧ Memory.wf d.work = true
  clean : ∀ d, e = .clean d → d.work = d.base

/-- What a change of an entry keeps for the table: its sector, whether it is CLOSED, and that it is not COMMITTING. -/
structure Entry.Stays (e e' : Entry) : Prop where
  lawful : e'.Lawful
  sector : e'.sector? = e.sector?
  closed : e'.isClosed = e.isClosed
  committing : e'.isCommitting = true → e.isCommitting = true

theorem Entry.Lawful.of_images {e : Entry} {d : Sector} (hd : e.data? = some d)
    (h : Memory.wf d.base = true ∧ Memory.wf d.work = true) (hc : ∀ d, e ≠ .clean d) : e.Lawful where
  images d' h' := by
    cases hd.symm.trans h'
    exact h
  clean d' h' := absurd h' (hc d')

theorem Entry.Lawful.of_clean {d : Sector} (h : Memory.wf d.base = true) (e : d.work = d.base) : (Entry.clean d).Lawful where
  images d' h' := by
    cases h'
    exact ⟨h, e ▸ h⟩
  clean d' h' := by
    cases h'
    exact e

/-- The merges and fill pages that fit the sector. -/
def Bounds.sector : Bounds :=
  { merge := fun off n => off + n ≤ Config.sectorBytes, page := fun p n => p < Config.sectorPages ∧ n = Config.pageBytes }

section
variable {now : Tick} {t : TimingSettings} {d : Sector} {off : Nat} {bytes : List (Option Byte)}

theorem wf_mergeSector (h : Memory.wf d.base = true ∧ Memory.wf d.work = true) (hb : off + bytes.length ≤ Config.sectorBytes) :
    Memory.wf (mergeSector now off bytes d).base = true ∧ Memory.wf (mergeSector now off bytes d).work = true :=
  ⟨h.1, wf_imgMerge h.2 hb⟩

/-- A merge makes an entry OPEN with the merged images, up to its first-write tick and timers. -/
theorem mergeOpen_eq (now : Tick) (t : TimingSettings) (off : Nat) (bytes : List (Option Byte)) (d : Sector) (age : Option Tick) :
    ∃ d' x, mergeOpen now t off bytes d age = .opened d' x ∧ d'.number = d.number ∧ d'.base = d.base ∧
      d'.work = imgMerge d.work off bytes := by
  simp only [mergeOpen]
  split_ifs
  · exact ⟨_, _, rfl, rfl, rfl, rfl⟩
  · exact ⟨_, _, rfl, rfl, rfl, rfl⟩
  · exact ⟨_, _, rfl, rfl, rfl, rfl⟩

theorem mergeOpen_stays {e : Entry} {age : Option Tick} (he : e.data? = some d)
    (h : Memory.wf d.base = true ∧ Memory.wf d.work = true) (hc : e.isClosed = false)
    (hb : off + bytes.length ≤ Config.sectorBytes) : e.Stays (mergeOpen now t off bytes d age) := by
  obtain ⟨d', x, hm, hn, hbase, hwork⟩ := mergeOpen_eq now t off bytes d age
  rw [hm]
  refine ⟨.of_images rfl ⟨hbase ▸ h.1, hwork ▸ wf_imgMerge h.2 hb⟩ nofun, ?_, hc.symm, nofun⟩
  rw [Entry.sector?, Entry.sector?, he]
  exact congrArg some hn

theorem mergeEntry_stays {e e' : Entry} (h : e.Lawful) (hb : off + bytes.length ≤ Config.sectorBytes)
    (hm : mergeEntry now t off bytes e = some e') : e.Stays e' := by
  cases e with
  | filling d f =>
    cases hm
    exact ⟨.of_images rfl (wf_mergeSector (h.images d rfl) hb) nofun, rfl, rfl, nofun⟩
  | opened d x =>
    cases hm
    exact mergeOpen_stays rfl (h.images d rfl) rfl hb
  | clean d =>
    cases hm
    exact mergeOpen_stays rfl (h.images d rfl) rfl hb
  | closed d c =>
    cases hm
    exact ⟨.of_images rfl (wf_mergeSector (h.images d rfl) hb) nofun, rfl, rfl, nofun⟩
  | free => cases hm
  | committing => cases hm
  | faulted => cases hm

end

theorem touchEntry_stays {now : Tick} {e : Entry} (h : e.Lawful) : e.Stays (touchEntry now e) := by
  cases e with
  | free => exact ⟨h, rfl, rfl, nofun⟩
  | clean d => exact ⟨.of_clean (h.images d rfl).1 (h.clean d rfl), rfl, rfl, nofun⟩
  | committing d c p => exact ⟨.of_images rfl (h.images d rfl) nofun, rfl, rfl, fun _ => rfl⟩
  | filling d => exact ⟨.of_images rfl (h.images d rfl) nofun, rfl, rfl, nofun⟩
  | opened d => exact ⟨.of_images rfl (h.images d rfl) nofun, rfl, rfl, nofun⟩
  | closed d => exact ⟨.of_images rfl (h.images d rfl) nofun, rfl, rfl, nofun⟩
  | faulted d => exact ⟨.of_images rfl (h.images d rfl) nofun, rfl, rfl, nofun⟩

theorem storePage_stays {p : Nat} {bytes : List Byte} {e : Entry} (h : e.Lawful)
    (hp : p < Config.sectorPages ∧ bytes.length = Config.pageBytes) : e.Stays (storePage p bytes e) := by
  have hle : p * Config.pageBytes + bytes.length ≤ Config.sectorBytes := by
    obtain ⟨h1, h2⟩ := hp
    simp only [Config.sectorPages, Config.pageBytes, Config.sectorBytes] at h1 h2 ⊢
    omega
  cases e with
  | filling d f =>
    exact ⟨.of_images rfl ⟨wf_imgWriteBytes (h.images d rfl).1 hle, (h.images d rfl).2⟩ nofun, rfl, rfl, nofun⟩
  | _ => exact ⟨h, rfl, rfl, id⟩

/-- A change of one entry keeps it lawful, and what the table needs of it. -/
theorem EntryStep.stays {now : Tick} {t : TimingSettings} {e e' : Entry} (s : EntryStep .sector now t e e') (h : e.Lawful) :
    e.Stays e' := by
  cases s with
  | touch => exact touchEntry_stays h
  | mark d => exact ⟨.of_images rfl (h.images d rfl) nofun, rfl, rfl, nofun⟩
  | clean d x hd =>
    have hw := h.images d rfl
    exact ⟨.of_clean hw.1 (work_eq_base hw.1 hw.2 hd), rfl, rfl, nofun⟩
  | merge off bytes e e' hb hm => exact mergeEntry_stays h hb hm
  | store p bytes e hp => exact storePage_stays h hp
  | filled d f =>
    have hw := h.images d rfl
    exact ⟨.of_images rfl ⟨hw.1, wf_filledWork_of_work hw.1 hw.2 _⟩ nofun, rfl, rfl, nofun⟩
  | idlePending d => exact ⟨.of_images rfl (h.images d rfl) nofun, rfl, rfl, nofun⟩
  | agePending d => exact ⟨.of_images rfl (h.images d rfl) nofun, rfl, rfl, nofun⟩
  | progress d => exact ⟨.of_images rfl (h.images d rfl) nofun, rfl, rfl, fun _ => rfl⟩
  | committed d => exact ⟨.of_clean (h.images d rfl).2 rfl, rfl, rfl, nofun⟩
  | faulted d => exact ⟨.of_images rfl (h.images d rfl) nofun, rfl, rfl, nofun⟩

/-! ### The table -/

/-- The clauses of the staging law that speak of the table, entry by entry. -/
structure Staging.Lawful (g : Staging) : Prop where
  count : g.entries.length = Config.entryCount
  entries : ∀ i, (g.entry i).Lawful
  sectors : ∀ i j n, (g.entry i).sector? = some n → (g.entry j).sector? = some n → i = j
  queued : g.closeQueue.Nodup
  queue : ∀ i, i ∈ g.closeQueue ↔ (g.entry i).isClosed = true
  committing : ∀ i j, (g.entry i).isCommitting = true → (g.entry j).isCommitting = true → i = j

namespace Staging

variable {g : Staging} {i : Nat}

theorem entry_of_lt (h : i < g.entries.length) : g.entry i = g.entries[i] := by
  rw [entry, List.getElem?_eq_getElem h, Option.getD_some]

theorem lt_of_entry_ne (h : g.entry i ≠ .free) : i < g.entries.length := by
  by_contra hi
  exact h (by rw [entry, List.getElem?_eq_none (Nat.le_of_not_lt hi), Option.getD_none])

theorem entry_setEntry_self (e : Entry) (h : i < g.entries.length) : (g.setEntry i e).entry i = e := by
  rw [entry, setEntry, List.getElem?_set_self h, Option.getD_some]

theorem entry_setEntry_ne {j : Nat} (e : Entry) (h : j ≠ i) : (g.setEntry i e).entry j = g.entry j := by
  rw [entry, setEntry, List.getElem?_set_ne h.symm, entry]

theorem setEntry_of_le (e : Entry) (h : g.entries.length ≤ i) : g.setEntry i e = g := by
  rw [setEntry, List.set_eq_of_length_le h]

theorem sector_ne_of_find {n : Nat} (h : g.find n = none) (j : Nat) : (g.entry j).sector? ≠ some n := by
  intro e
  have hj : j < g.entries.length := lt_of_entry_ne fun h' => by rw [h'] at e; cases e
  rw [entry_of_lt hj] at e
  have := List.findIdx?_eq_none_iff.mp h _ (List.getElem_mem hj)
  simp [e] at this

theorem not_committing_of_index (h : g.committingIndex = none) (j : Nat) : (g.entry j).isCommitting = false := by
  by_cases hj : j < g.entries.length
  case pos =>
    rw [entry_of_lt hj]
    exact List.findIdx?_eq_none_iff.mp h _ (List.getElem_mem hj)
  case neg => rw [entry, List.getElem?_eq_none (Nat.le_of_not_lt hj)]; rfl

/-- One entry takes the place of another, and the close queue follows. -/
theorem Lawful.replace (h : g.Lawful) (hi : i < g.entries.length) {e : Entry} {q : List Nat} (he : e.Lawful)
    (hs : ∀ n, e.sector? = some n → (g.entry i).sector? = some n ∨ g.find n = none)
    (hc : e.isCommitting = true → (g.entry i).isCommitting = true ∨ g.committingIndex = none) (hn : q.Nodup)
    (hself : i ∈ q ↔ e.isClosed = true) (hne : ∀ j, j ≠ i → (j ∈ q ↔ j ∈ g.closeQueue)) :
    Lawful { g.setEntry i e with closeQueue := q } := by
  have self : (g.setEntry i e).entry i = e := entry_setEntry_self e hi
  have other {j : Nat} (hj : j ≠ i) : (g.setEntry i e).entry j = g.entry j := entry_setEntry_ne e hj
  have fresh {j n : Nat} (hj : j ≠ i) (h1 : e.sector? = some n) (h2 : (g.entry j).sector? = some n) : False := by
    obtain h' | h' := hs n h1
    · exact hj (h.sectors j i n h2 h')
    · exact sector_ne_of_find h' j h2
  have alone {j : Nat} (hj : j ≠ i) (h1 : e.isCommitting = true) (h2 : (g.entry j).isCommitting = true) : False := by
    obtain h' | h' := hc h1
    · exact hj (h.committing j i h2 h')
    · exact Bool.false_ne_true ((not_committing_of_index h' j).symm.trans h2)
  refine ⟨List.length_set.trans h.count, fun j => ?_, fun j k n hj hk => ?_, hn, fun j => ?_, fun j k hj hk => ?_⟩
  · change ((g.setEntry i e).entry j).Lawful
    by_cases hji : j = i
    · rw [hji, self]
      exact he
    · rw [other hji]
      exact h.entries j
  · change ((g.setEntry i e).entry j).sector? = some n at hj
    change ((g.setEntry i e).entry k).sector? = some n at hk
    by_cases hji : j = i <;> by_cases hki : k = i
    · exact hji.trans hki.symm
    · rw [hji, self] at hj
      rw [other hki] at hk
      exact (fresh hki hj hk).elim
    · rw [other hji] at hj
      rw [hki, self] at hk
      exact (fresh hji hk hj).elim
    · rw [other hji] at hj
      rw [other hki] at hk
      exact h.sectors j k n hj hk
  · change j ∈ q ↔ ((g.setEntry i e).entry j).isClosed = true
    by_cases hji : j = i
    · rw [hji, self]
      exact hself
    · rw [other hji, hne j hji]
      exact h.queue j
  · change ((g.setEntry i e).entry j).isCommitting = true at hj
    change ((g.setEntry i e).entry k).isCommitting = true at hk
    by_cases hji : j = i <;> by_cases hki : k = i
    · exact hji.trans hki.symm
    · rw [hji, self] at hj
      rw [other hki] at hk
      exact (alone hki hj hk).elim
    · rw [other hji] at hj
      rw [hki, self] at hk
      exact (alone hji hk hj).elim
    · rw [other hji] at hj
      rw [other hki] at hk
      exact h.committing j k hj hk

/-- An entry that was not CLOSED becomes it, at the tail of the close queue. -/
theorem Lawful.append (h : g.Lawful) {e : Entry} (hold : g.entry i ≠ .free) (hopen : (g.entry i).isClosed = false)
    (he : e.Lawful) (hs : e.sector? = (g.entry i).sector?) (hclosed : e.isClosed = true) (hc : e.isCommitting = false) :
    Lawful { g.setEntry i e with closeQueue := g.closeQueue ++ [i] } := by
  have hi : i ∉ g.closeQueue := fun hm => Bool.false_ne_true (hopen.symm.trans ((h.queue i).mp hm))
  refine h.replace (lt_of_entry_ne hold) he (fun n hn => .inl (hs ▸ hn)) (fun hc' => ?_) ?_ ?_ fun j hj => ?_
  · exact absurd (hc.symm.trans hc') Bool.false_ne_true
  · rw [List.nodup_append]
    exact ⟨h.queued, List.nodup_singleton i, fun a ha b hb => by
      rw [List.mem_singleton.mp hb]
      exact fun e => hi (e ▸ ha)⟩
  · simp [hclosed]
  · simp [hj]

/-- The head of the close queue leaves it, and is no longer CLOSED. -/
theorem Lawful.dequeue (h : g.Lawful) {e : Entry} {rest : List Nat} (hq : g.closeQueue = i :: rest) (he : e.Lawful)
    (hs : e.sector? = (g.entry i).sector?) (hc : e.isCommitting = true → g.committingIndex = none)
    (hclosed : e.isClosed = false) : Lawful { g.setEntry i e with closeQueue := rest } := by
  have hn : i ∉ rest ∧ rest.Nodup := List.nodup_cons.mp (hq ▸ h.queued)
  have hi : (g.entry i).isClosed = true := (h.queue i).mp (hq ▸ List.mem_cons_self)
  refine h.replace (lt_of_entry_ne fun h' => ?_) he (fun n hn => .inl (hs ▸ hn)) (fun hc' => .inr (hc hc')) hn.2 ?_ fun j hj => ?_
  · rw [h'] at hi
    cases hi
  · simp [hn.1, hclosed]
  · rw [hq, List.mem_cons]
    simp [hj]

/-- An entry that is not CLOSED changes, and is not CLOSED then. -/
theorem Lawful.set (h : g.Lawful) {e : Entry} (he : e.Lawful)
    (hs : ∀ n, e.sector? = some n → (g.entry i).sector? = some n ∨ g.find n = none)
    (hc : e.isCommitting = true → (g.entry i).isCommitting = true) (hclosed : e.isClosed = (g.entry i).isClosed) :
    (g.setEntry i e).Lawful := by
  by_cases hi : i < g.entries.length
  case pos =>
    exact h.replace hi he hs (fun hc' => .inl (hc hc')) h.queued (by rw [hclosed]; exact h.queue i) fun _ _ => Iff.rfl
  case neg =>
    rw [setEntry_of_le e (Nat.le_of_not_lt hi)]
    exact h

theorem initial_entry (i : Nat) : Staging.initial.entry i = .free := by
  unfold entry initial
  rw [List.getElem?_replicate]
  split <;> rfl

theorem initial_lawful : Staging.initial.Lawful where
  count := List.length_replicate
  entries i := by
    rw [initial_entry]
    exact ⟨nofun, nofun⟩
  sectors i j n h := by
    rw [initial_entry] at h
    cases h
  queued := .nil
  queue i := by
    rw [initial_entry]
    simp [initial, Entry.isClosed]
  committing i j h := by
    rw [initial_entry] at h
    cases h

end Staging

/-- The place of an allocation is a FREE or CLEAN entry (R18, R19). -/
theorem Staging.place_entry {g : Staging} {now : Tick} {i : Nat} (h : g.place now = some i) :
    (g.entry i).isClosed = false := by
  unfold place at h
  split at h
  case h_1 j hj =>
    cases h
    obtain ⟨hlt, hfree, -⟩ := List.findIdx?_eq_some_iff_getElem.mp hj
    rw [entry_of_lt hlt, isFree_iff.mp hfree]
    rfl
  case h_2 =>
    obtain ⟨⟨j, x⟩, hp, rfl⟩ := Option.map_eq_some_iff.mp h
    obtain ⟨i, t, rfl, -, ht, -⟩ := pickOldest_eq_some hp
    obtain ⟨d, hd, -⟩ := cleanUse_eq_some.mp ((tickAt_entries rfl g i t).mp ht)
    rw [Nat.zero_add, hd]
    rfl

theorem TableStep.lawful {now : Tick} {t : TimingSettings} {g g' : Staging} (h : g.Lawful)
    (s : TableStep .sector now t g g') : g'.Lawful := by
  cases s with
  | entry i e hs =>
    obtain ⟨hl, hsec, hclosed, hcomm⟩ := hs.stays (h.entries i)
    exact h.set hl (fun n hn => .inl (hsec ▸ hn)) hcomm hclosed
  | close i d x c he hd =>
    have hw := (h.entries i).images d (he ▸ rfl)
    exact h.append (he ▸ nofun) (he ▸ rfl) (.of_images rfl hw nofun) (he ▸ rfl) rfl rfl
  | retryFault i d r he =>
    have hw := (h.entries i).images d (he ▸ rfl)
    exact h.append (he ▸ nofun) (he ▸ rfl) (.of_images rfl hw nofun) (he ▸ rfl) rfl rfl
  | discard i d r he => exact h.set ⟨nofun, nofun⟩ nofun nofun (he ▸ rfl)
  | allocate i n off bytes hb hn hi =>
    refine h.set (.of_images rfl ⟨wf_nil, wf_imgMerge wf_nil hb⟩ nofun) (fun k hk => .inr ?_) nofun (g.place_entry hi).symm
    cases hk
    exact hn
  | start i rest d c p hc hq he =>
    have hw := (h.entries i).images d (he ▸ rfl)
    exact h.dequeue hq (.of_images rfl hw nofun) (he ▸ rfl) (fun _ => hc) rfl
  | skip i rest d c hq he hd =>
    have hw := (h.entries i).images d (he ▸ rfl)
    exact h.dequeue hq (.of_clean hw.1 (work_eq_base hw.1 hw.2 hd)) (he ▸ rfl) nofun rfl
  | drop i rest hq hn =>
    have hi := (h.queue i).mp (hq ▸ List.mem_cons_self)
    cases e : g.entry i with
    | closed d c => exact absurd e (hn d c)
    | _ => rw [e] at hi; cases hi
  | count n => exact ⟨h.count, h.entries, h.sectors, h.queued, h.queue, h.committing⟩
  | reset => exact Staging.initial_lawful

/-! ### The law -/

/-- No two places of the table clash, said of the list and of the entries by number. -/
theorem Staging.pairwise_iff (g : Staging) {clash : Entry → Entry → Prop} (symm : ∀ {e e'}, clash e e' → clash e' e)
    (free : ∀ {e}, ¬ clash .free e) :
    g.entries.Pairwise (fun e e' => ¬ clash e e') ↔ ∀ i j, clash (g.entry i) (g.entry j) → i = j := by
  rw [List.pairwise_iff_getElem]
  constructor
  · intro h i j hc
    have hi : i < g.entries.length := lt_of_entry_ne fun e => free (e ▸ hc)
    have hj : j < g.entries.length := lt_of_entry_ne fun e => free (e ▸ symm hc)
    rw [entry_of_lt hi, entry_of_lt hj] at hc
    obtain hlt | heq | hgt := Nat.lt_trichotomy i j
    · exact absurd hc (h i j hi hj hlt)
    · exact heq
    · exact absurd (symm hc) (h j i hj hi hgt)
  · intro h i j hi hj hlt hc
    rw [← entry_of_lt hi, ← entry_of_lt hj] at hc
    exact Nat.ne_of_lt hlt (h i j hc)

theorem Staging.sectors_iff (g : Staging) : (g.entries.filterMap Entry.sector?).Nodup ↔
    ∀ i j n, (g.entry i).sector? = some n → (g.entry j).sector? = some n → i = j := by
  have h := g.pairwise_iff (clash := fun e e' => ∃ n, e.sector? = some n ∧ e'.sector? = some n)
    (fun ⟨n, h, h'⟩ => ⟨n, h', h⟩) (fun ⟨n, h, _⟩ => by cases h)
  rw [List.nodup_iff_pairwise_ne, List.pairwise_filterMap]
  simp only [not_exists, not_and, forall_exists_index, and_imp] at h
  rw [← h]
  refine List.Pairwise.iff fun {e e'} => ⟨fun hne n h1 h2 => hne n h1 n h2 rfl, fun hne n h1 m h2 e => ?_⟩
  exact hne n h1 (e ▸ h2)

theorem length_le_one_iff {α : Type} (l : List α) : l.length ≤ 1 ↔ l.Pairwise fun _ _ => False := by
  match l with
  | [] => exact iff_of_true (Nat.zero_le 1) .nil
  | [a] => exact iff_of_true le_rfl (List.pairwise_singleton ..)
  | a :: b :: l => exact iff_of_false (by simp) fun h => (List.pairwise_cons.mp h).1 b List.mem_cons_self

theorem Staging.committing_iff (g : Staging) : g.entries.countP Entry.isCommitting ≤ 1 ↔
    ∀ i j, (g.entry i).isCommitting = true → (g.entry j).isCommitting = true → i = j := by
  have h := g.pairwise_iff (clash := fun e e' => e.isCommitting = true ∧ e'.isCommitting = true)
    (fun ⟨h, h'⟩ => ⟨h', h⟩) (fun ⟨h, _⟩ => by cases h)
  rw [List.countP_eq_length_filter, length_le_one_iff, List.pairwise_filter]
  simpa using h

/-- What of a lane reaches the table: a write in progress fits its line, and those that wait are at line addresses. -/
structure State.LinesFit (s : State) : Prop where
  write : ∀ w, s.port.write = some w → w.req.fits
  waiting : ∀ w ∈ s.port.waitWrites, w.line.toNat % 64 = 0

/-- The pages of the fill requests, and of the READ in flight, are pages of a sector. -/
structure Drive.FillsFit (d : Drive) : Prop where
  fills : ∀ f ∈ d.seq.fills, f.page < Config.sectorPages
  page : ∀ p, d.seq.st.fillingPage = some p → p < Config.sectorPages

theorem State.stagingLaw_iff (s : State) : s.StagingLaw ↔ (s.LinesFit ∧ s.drive.FillsFit) ∧ s.staging.Lawful := by
  constructor
  · rintro ⟨hcount, himages, hclean, hsectors, hqueued, hqueue, hcommitting, hfills, hpage, hwrite, hwaiting⟩
    refine ⟨⟨⟨hwrite, hwaiting⟩, ⟨hfills, hpage⟩⟩, ⟨hcount, fun i => ?_, (Staging.sectors_iff _).mp hsectors, hqueued, hqueue,
      (Staging.committing_iff _).mp hcommitting⟩⟩
    by_cases hi : i < s.staging.entries.length
    · have hm := List.getElem_mem hi
      rw [Staging.entry_of_lt hi]
      exact ⟨himages _ hm, fun d hd => hclean d (hd ▸ hm)⟩
    · rw [Staging.entry, List.getElem?_eq_none (Nat.le_of_not_lt hi)]
      exact ⟨nofun, nofun⟩
  · rintro ⟨⟨⟨hwrite, hwaiting⟩, ⟨hfills, hpage⟩⟩, hcount, hentries, hsectors, hqueued, hqueue, hcommitting⟩
    have lawful : ∀ e ∈ s.staging.entries, e.Lawful := fun e he => by
      obtain ⟨i, hi, rfl⟩ := List.mem_iff_getElem.mp he
      exact Staging.entry_of_lt hi ▸ hentries i
    exact ⟨hcount, fun e he => (lawful e he).images, fun d hd => (lawful _ hd).clean d rfl, (Staging.sectors_iff _).mpr hsectors,
      hqueued, hqueue, (Staging.committing_iff _).mpr hcommitting, hfills, hpage, hwrite, hwaiting⟩

/-! ### Lines and pages -/

theorem lineOf_aligned (a : Addr) : (lineOf a).toNat % 64 = 0 := by
  have h : (lineOf a).extractLsb' 0 6 = 0 := by
    unfold lineOf
    ext i hi
    rw [BitVec.getElem_extractLsb', BitVec.getLsbD_and, lineMask_getLsbD]
    simp [hi]
  have h' := congrArg BitVec.toNat h
  simpa using h'

theorem crossesLine_eq_false {offset length : Nat} (h : crossesLine offset length = false) : offset + length ≤ 64 :=
  Nat.le_of_not_lt (of_decide_eq_false h)

theorem WriteReq.fits.admits {w : WriteReq} (h : w.fits) : Bounds.sector.Admits w := by
  obtain ⟨hline, hlen⟩ := h
  have := w.line.isLt
  simp only [Bounds.Admits, Bounds.sector, WriteReq.sectorOff, sectorOffset, Config.sectorBytes]
  omega

theorem State.LinesFit.step {s t : State} (l : s.LaneStep False t) (h : s.LinesFit) : t.LinesFit where
  write x hx := by
    obtain ⟨w, hw, hr, -⟩ := l.write x hx
    exact hr ▸ h.write w hw
  waiting w hw := h.waiting w (l.waiting ▸ hw)

theorem linesFit_kept : Kept State.LinesFit := by
  refine laneLaw_kept .step (fun s req h => ⟨h.write, fun w hw => ?_⟩) (fun s h _ => ?_) fun s h hfree => ?_
  · obtain hw | hw := List.mem_append.mp hw
    · exact h.waiting w hw
    · rw [List.mem_singleton.mp hw]
      exact lineOf_aligned _
  · obtain ⟨-, hw, hww⟩ := s.acceptNextRead_lanes
    exact ⟨hw ▸ h.write, hww ▸ h.waiting⟩
  · obtain ⟨hw, -, hww⟩ := s.acceptNextWrite_lanes hfree
    refine ⟨fun x hx => ?_, fun w hm => h.waiting w (hww w hm)⟩
    obtain ⟨req, hm, hc, hl⟩ := hw x hx
    rw [(hl x rfl).1]
    exact ⟨h.waiting req hm, crossesLine_eq_false hc⟩

theorem fillingPage_of_operation {x : SeqState} {op : FlashOp} (h : x.operation? = some op) : x.fillingPage = none := by
  cases x with
  | reading c => cases h
  | _ => rfl

theorem fillingPage_grow (x : SeqState) : x.grow.fillingPage = x.fillingPage := by
  cases x <;> rfl

theorem Drive.FillsFit.step {m : DriveMode} {now : Tick} {t : TimingSettings} {d d' : Drive} (h : d.FillsFit)
    (s : DriveStep m now t d d') : d'.FillsFit := by
  cases s with
  | fillAdded n =>
    refine ⟨fun f hf => ?_, h.page⟩
    obtain hf | hf := List.mem_append.mp hf
    · exact h.fills f hf
    · rw [List.mem_singleton.mp hf]
      exact Nat.zero_lt_succ _
  | fillsDropped => exact ⟨nofun, h.page⟩
  | fill f rest e =>
    have hf : f.page < Config.sectorPages := h.fills f (e ▸ List.mem_cons_self)
    refine ⟨fun x hx => ?_, fun p hp => ?_⟩
    · have hr : ∀ x ∈ rest, x.page < Config.sectorPages := fun x hx => h.fills x (e ▸ List.mem_cons_of_mem _ hx)
      by_cases hlast : isLastPage f.page = true
      case pos => exact hr x (by simpa [advanceFill, hlast] using hx)
      case neg =>
        have hx : x = { f with page := f.page + 1 } ∨ x ∈ rest := by simpa [advanceFill, hlast] using hx
        obtain rfl | hx := hx
        · have : f.page + 1 ≠ Config.sectorPages := by simpa [isLastPage] using hlast
          exact lt_of_le_of_ne hf this
        · exact hr x hx
    · cases hp
      exact hf
  | reading c hc =>
    refine ⟨h.fills, fun p hp => ?_⟩
    cases c with
    | fillPage n q => exact absurd rfl (hc n q)
    | _ => cases hp
  | goesOn op op' x h1 h2 =>
    exact ⟨h.fills, fun p hp => nomatch (fillingPage_of_operation h2).symm.trans hp⟩
  | reset x p hx =>
    refine ⟨nofun, fun p hp => ?_⟩
    obtain rfl | rfl := hx <;> cases hp
  | suspend | idle | stalled | asleep | waking | startupWait | start => exact ⟨h.fills, nofun⟩
  | _ => exact ⟨h.fills, h.page⟩

theorem fillsFit_kept : Kept fun s => s.drive.FillsFit := by
  refine driveLaw_kept (m := { strict := False, sleeps := True }) trivial (fun _ _ _ _ => .step) (fun h => h.elim) fun d h => ?_
  exact ⟨h.fills, fun p hp => h.page p (fillingPage_grow d.seq.st ▸ hp)⟩

/-- Settles O7: the lines and the fill pages are laws of their own, under which every merge and every page fits its sector;
the changes of the table that come of them keep its law. -/
theorem stepsKeepTheStagingLaw : Obligations.StepsKeepTheStagingLaw := by
  intro s t
  rw [State.stagingLaw_iff, State.stagingLaw_iff]
  have step : ∀ now t g g', g.Lawful → TableStep .sector now t g g' → g'.Lawful := fun _ _ _ _ h s => s.lawful h
  have fills : ∀ now t d d', d.FillsFit → DriveStep { strict := False, sleeps := True } now t d d' → d'.FillsFit :=
    fun _ _ _ _ => .step
  have kept := tableLaw_kept (linesFit_kept.and fillsFit_kept) step (fun s w h hw => (h.1.write w hw).admits)
    (fun s req h hm hc => WriteReq.fits.admits ⟨h.1.waiting req hm, crossesLine_eq_false hc⟩)
    (fun s p h hp => ⟨h.2.page p hp, rfl⟩)
  have restarts := driveLaw_restarts fills (fun _ _ => ⟨nofun, nofun⟩) (fun _ _ => ⟨nofun, nofun⟩) fun _ _ _ => ⟨nofun, nofun⟩
  exact kept.step (((laneLaw_restarts .step).and restarts).and (tableLaw_restarts step Staging.initial_lawful))

end Sys2Proof.Machine
end

section
/-! SUPPORT. The law of SLEEP (R143): a part that is not about to sleep stays so but for a drain's completion and the grant of SLEEP; one that is takes no unwritten data. -/

namespace Sys2Proof.Machine

/-! ### The staging table without a merge -/

/-- Bounds that allow no merge. -/
def Bounds.calm : Bounds := { merge := fun _ _ => False, page := fun _ _ => True }

theorem Staging.entry_calm {g : Staging} (h : g.entries.any Entry.unwritten = false) (i : Nat) : (g.entry i).unwritten = false := by
  by_cases hi : i < g.entries.length
  case pos =>
    rw [Staging.entry_of_lt hi]
    exact Bool.not_eq_true _ ▸ List.any_eq_false.mp h _ (List.getElem_mem hi)
  case neg =>
    rw [Staging.entry, List.getElem?_eq_none (Nat.le_of_not_lt hi)]
    rfl

theorem Staging.set_calm {g : Staging} (h : g.entries.any Entry.unwritten = false) (i : Nat) {e : Entry}
    (he : e.unwritten = false) : (g.setEntry i e).entries.any Entry.unwritten = false := by
  rw [List.any_eq_false] at h ⊢
  intro x hx
  obtain hx | rfl := List.mem_or_eq_of_mem_set hx
  · exact h x hx
  · simp [he]

theorem EntryStep.calm {now : Tick} {t : TimingSettings} {e e' : Entry} (h : e.unwritten = false)
    (s : EntryStep .calm now t e e') : e'.unwritten = false := by
  cases s with
  | touch => cases e <;> exact h
  | merge off bytes e e' hb => exact hb.elim
  | store p bytes e =>
    cases e with
    | filling => cases h
    | _ => exact h
  | clean => rfl
  | _ => cases h

/-- Without a merge, a table without unwritten data gains none. -/
theorem TableStep.calm {now : Tick} {t : TimingSettings} {g g' : Staging} (h : g.entries.any Entry.unwritten = false)
    (s : TableStep .calm now t g g') : g'.entries.any Entry.unwritten = false := by
  cases s with
  | entry i e hs => exact g.set_calm h i (hs.calm (g.entry_calm h i))
  | close i d x c he hd =>
    have hi := g.entry_calm h i
    rw [he] at hi
    exact absurd (hd.symm.trans hi) Bool.noConfusion
  | retryFault i d r he =>
    have hi := g.entry_calm h i
    rw [he] at hi
    cases hi
  | discard i => exact g.set_calm h i rfl
  | allocate i n off bytes hb => exact hb.elim
  | start i rest d c p _ _ he =>
    have hi := g.entry_calm h i
    rw [he] at hi
    cases hi
  | skip i => exact g.set_calm h i rfl
  | drop => exact h
  | count => exact h
  | reset => rfl

/-! ### The drive -/

/-- The conditions of the law that speak of the drive alone. -/
structure Drive.Ordered (d : Drive) : Prop where
  request : d.seq.powerReq = some .sleep → d.power.st = .drain
  startup : d.seq.st.inStartupWait = true → d.power.st = .starting

/-- Neither in SLEEP nor with a sleep request outstanding. -/
structure Drive.Awake (d : Drive) : Prop where
  power : d.power.st ≠ .sleep
  request : d.seq.powerReq ≠ some .sleep

theorem startupWait_of_operation {x : SeqState} {op : FlashOp} (h : x.operation? = some op) : x.inStartupWait = false := by
  cases x with
  | startupWait => cases h
  | _ => rfl

theorem inStartupWait_grow (x : SeqState) : x.grow.inStartupWait = x.inStartupWait := by
  cases x <;> rfl

theorem Drive.Ordered.step {m : DriveMode} (hm : m.strict) {now : Tick} {t : TimingSettings} {d d' : Drive} (h : d.Ordered)
    (s : DriveStep m now t d d') : d'.Ordered := by
  cases s with
  | request _ hd => exact ⟨fun _ => hd hm, h.startup⟩
  | noRequest => exact ⟨nofun, h.startup⟩
  | startupWait r hs => exact ⟨h.request, fun _ => hs hm⟩
  | goesOn op op' x _ hx => exact ⟨h.request, fun e => absurd ((startupWait_of_operation hx).symm.trans e) Bool.noConfusion⟩
  | power x _ _ hd hs =>
    exact ⟨fun e => absurd (h.request e) (hd hm), fun e => absurd ((hs hm (h.startup e)).symm.trans e) Bool.noConfusion⟩
  | drain e => exact ⟨fun _ => rfl, fun e' => nomatch e.symm.trans (h.startup e')⟩
  | drained x hr hd => exact ⟨fun e => absurd e (hr hm), fun e => nomatch hd.symm.trans (h.startup e)⟩
  | sleep x _ hr hd => exact ⟨fun e => absurd e (hr hm), fun e => nomatch (hd hm).symm.trans (h.startup e)⟩
  | reset x p hx =>
    refine ⟨nofun, fun e => ?_⟩
    obtain rfl | rfl := hx <;> cases e
  | suspend | idle | stalled | asleep | waking | reading | fill | start => exact ⟨h.request, nofun⟩
  | _ => exact ⟨h.request, h.startup⟩

theorem Drive.Awake.step {m : DriveMode} (hm : ¬ m.sleeps) {now : Tick} {t : TimingSettings} {d d' : Drive} (h : d.Awake)
    (s : DriveStep m now t d d') : d'.Awake := by
  cases s with
  | request hs => exact absurd hs hm
  | sleep x hs => exact absurd hs hm
  | noRequest => exact ⟨h.power, nofun⟩
  | power x hx => exact ⟨hx, h.request⟩
  | drain => exact ⟨nofun, h.request⟩
  | drained => exact ⟨nofun, h.request⟩
  | reset x p hx hp => exact ⟨hp, nofun⟩
  | _ => exact ⟨h.power, h.request⟩

namespace State

variable {s t : State}

/-- The grant of SLEEP is the one that is left where no claim waits (R63). -/
theorem grantNext_cases (s : State) : s.grantNext = s.grantCommit ∨ (∃ tag rest, s.grantNext = s.grantMiss tag rest) ∨
    (∃ f rest, s.seq.fills = f :: rest ∧ s.grantNext = s.grantFill f rest) ∨
    (s.claimWaiting = false ∧ s.grantNext = s.grantSleep) := by
  unfold grantNext
  split
  case isTrue => exact .inl rfl
  case isFalse =>
    split
    case h_1 _ _ tag rest _ => exact .inr (.inl ⟨tag, rest, rfl⟩)
    case h_2 _ _ f rest _ hf => exact .inr (.inr (.inl ⟨f, rest, hf, rfl⟩))
    case h_3 hm hf =>
      split
      case isTrue => exact .inl rfl
      case isFalse hc => exact .inr (.inr (.inr ⟨by simp [claimWaiting, hm, hf, hc], rfl⟩))

/-! ### The law -/

/-- No entry holds unwritten data and no write waits to merge. -/
structure NothingToWrite (s : State) : Prop where
  written : s.unwritten = false
  unheld : s.mergeHeld = false

/-- The law of SLEEP, its two clauses about unwritten data in one. -/
structure SleepsWell (s : State) : Prop where
  ordered : s.drive.Ordered
  quiet : s.drive.Awake ∨ s.NothingToWrite

theorem sleepLaw_iff (s : State) : s.SleepLaw ↔ s.SleepsWell := by
  constructor
  · rintro ⟨hrequest, hasleep, houtstanding, hstartup⟩
    refine ⟨⟨hrequest, hstartup⟩, ?_⟩
    by_cases hp : s.power.st = .sleep
    · exact .inr ⟨(hasleep hp).1, (hasleep hp).2⟩
    · by_cases hr : s.seq.powerReq = some .sleep
      · exact .inr ⟨(houtstanding hr).1, (houtstanding hr).2⟩
      · exact .inl ⟨hp, hr⟩
  · rintro ⟨⟨hrequest, hstartup⟩, hawake | ⟨hw, hh⟩⟩
    · exact ⟨hrequest, fun e => absurd e hawake.power, fun e => absurd e hawake.request, hstartup⟩
    · exact ⟨hrequest, fun _ => ⟨hw, hh⟩, fun _ => ⟨hw, hh⟩, hstartup⟩

theorem mergeHeld_eq_false_iff (s : State) : s.mergeHeld = false ↔
    ∀ w, s.port.write = some w → w.stage ≠ .held .noEntry ∧ w.stage ≠ .held .committing := by
  unfold mergeHeld
  constructor
  · intro h w hw
    rw [hw] at h
    obtain ⟨req, accepted, hold, stage, decision⟩ := w
    refine ⟨fun e => ?_, fun e => ?_⟩ <;>
    · cases e
      cases h
  · intro h
    split
    case h_1 e => exact absurd rfl (h _ e).1
    case h_2 e => exact absurd rfl (h _ e).2
    case h_3 => rfl

/-- The changes of the drive that do not lead to SLEEP. -/
def restless : DriveMode := { strict := True, sleeps := False }

/-- A part whose table stays without unwritten data, and whose write is not held for another cause. -/
theorem NothingToWrite.step (h : s.NothingToWrite) (p : s.Path .calm t) (hw : ∀ w, t.port.write = some w →
    w.stage ≠ .held .noEntry ∧ w.stage ≠ .held .committing) : t.NothingToWrite :=
  ⟨TableStep.keeps (T := fun g => g.entries.any Entry.unwritten = false) (fun _ _ => TableStep.calm) p h.written,
    t.mergeHeld_eq_false_iff.mpr hw⟩

theorem NothingToWrite.lane (h : s.NothingToWrite) (l : s.LaneStep True t) (w : WriteInProgress) (hw : t.port.write = some w) :
    w.stage ≠ .held .noEntry ∧ w.stage ≠ .held .committing := by
  obtain ⟨x, hx, -, hheld⟩ := l.write w hw
  obtain ⟨h1, h2⟩ := s.mergeHeld_eq_false_iff.mp h.unheld x hx
  refine ⟨fun e => ?_, fun e => ?_⟩
  · obtain ⟨⟨c, hc, he⟩, -⟩ := hheld _ e
    exact h1 (he trivial ▸ hc)
  · obtain ⟨⟨c, hc, he⟩, -⟩ := hheld _ e
    exact h2 (he trivial ▸ hc)

theorem NothingToWrite.congr (h : s.NothingToWrite) (hs : t.staging = s.staging) (hw : t.port.write = s.port.write) :
    t.NothingToWrite :=
  h.step (.of_eq hs) (hw ▸ s.mergeHeld_eq_false_iff.mp h.unheld)

namespace SleepsWell

/-- An effect on the drive that does not lead to SLEEP, and what it leaves of a part without unwritten data. -/
theorem move (h : s.SleepsWell) (d : s.DrivePath restless t) (q : ¬ s.drive.Awake → s.NothingToWrite → t.drive.Awake ∨ t.NothingToWrite) :
    t.SleepsWell where
  ordered := DriveStep.keeps (fun _ _ => .step trivial) d h.ordered
  quiet := by
    by_cases ha : s.drive.Awake
    case pos => exact .inl (DriveStep.keeps (fun _ _ => .step id) d ha)
    case neg => exact q ha (h.quiet.resolve_left ha)

/-- An effect that does not lead to SLEEP, merges nothing and holds no write for another cause. -/
theorem rest (h : s.SleepsWell) (d : s.DrivePath restless t) (p : s.Path .calm t) (l : s.LaneStep True t) : t.SleepsWell :=
  h.move d fun _ hn => .inr (hn.step p (hn.lane l))

/-- An effect on other blocks. -/
theorem congr (h : s.SleepsWell) (hq : t.seq = s.seq ∧ t.power = s.power) (hs : t.staging = s.staging)
    (hw : t.port.write = s.port.write) : t.SleepsWell :=
  h.move (.same hq) fun _ hn => .inr (hn.congr hs hw)

/-- In RUN the part is not about to sleep. -/
theorem awake_of_run (h : s.SleepsWell) (hr : s.power.st = .run) : s.drive.Awake :=
  ⟨hr ▸ nofun, fun e => nomatch hr.symm.trans (h.ordered.request e)⟩

theorem release (h : s.SleepsWell) (c : s.canReleaseWrite = true) : s.releaseWrite.SleepsWell := by
  refine h.move s.releaseWrite_drives.path fun ha hn => absurd ?_ ha
  have hm := s.mergeHeld_eq_false_iff.mp hn.unheld
  unfold canReleaseWrite at c
  split at c
  case h_1 => cases c
  case h_2 w hw =>
    split at c
    case h_1 => exact h.awake_of_run (of_decide_eq_true c)
    case h_2 e => exact absurd e (hm w hw).2
    case h_3 e => exact absurd e (hm w hw).1
    case h_4 => cases c

/-- The grant of SLEEP answers a request, with the part as it is; every other grant does not lead to SLEEP (R63, R77). -/
theorem grant (h : s.SleepsWell) (c : s.canGrant = true) : s.grantNext.SleepsWell := by
  have other (d : s.Drives restless s.grantNext) : s.grantNext.SleepsWell :=
    h.move d.path fun _ hn => .inr (hn.step s.grantNext_moves.path (hn.lane (.of_port (by simp))))
  have sleep (hr : s.seq.powerReq = some .sleep) (e : s.grantNext = s.grantSleep) : s.grantNext.SleepsWell := by
    have hn : s.NothingToWrite := h.quiet.resolve_left fun ha => ha.request hr
    refine ⟨?_, .inr (hn.congr (by simp [e]) (by simp [e]))⟩
    exact DriveStep.keeps (fun _ _ => .step (m := { strict := True, sleeps := True }) trivial) (s.grantNext_drives trivial).path
      h.ordered
  simp only [canGrant, Bool.and_eq_true, Bool.or_eq_true, decide_eq_true_eq] at c
  obtain e | ⟨tag, rest, e⟩ | ⟨f, rest, hf, e⟩ | ⟨hw, e⟩ := s.grantNext_cases
  · exact other (e ▸ s.grantCommit_drives)
  · exact other (e ▸ s.grantMiss_drives tag rest)
  · exact other (e ▸ s.grantFill_drives f rest hf)
  · exact sleep (c.2.resolve_left (by simpa [claimWaiting] using hw)) e

theorem drain (h : s.SleepsWell) (c : s.drainDue = true) : s.completeDrain.SleepsWell where
  ordered := DriveStep.keeps (fun _ _ => .step (m := { strict := True, sleeps := True }) trivial)
    (s.completeDrain_drives trivial c).path h.ordered
  quiet := by
    simp only [drainDue, drainCondition, Bool.and_eq_true, Bool.not_eq_true'] at c
    obtain ⟨⟨-, ⟨⟨hu, -⟩, -⟩, ho⟩, -⟩ := c
    have hn : s.NothingToWrite := by
      refine ⟨hu, s.mergeHeld_eq_false_iff.mpr fun w hw => ?_⟩
      rw [ordinaryWrite, hw] at ho
      obtain ⟨req, accepted, hold, stage, decision⟩ := w
      refine ⟨fun e => ?_, fun e => ?_⟩ <;>
      · cases e
        cases ho
    exact .inr (hn.congr (by simp) (by simp))

/-- To leave SLEEP ends what a sleep request asked for (R145, R78). -/
theorem wakePart_awake (s : State) : s.wakePart.drive.Awake := by
  have reported (x : State) (hx : x.power.st = .waking) (hr : x.seq.powerReq = none) : x.wakeReported.drive.Awake := by
    rw [wakeReported, if_pos hx]
    exact ⟨nofun, hr ▸ nofun⟩
  simp only [wakePart, requestWake]
  split_ifs
  · exact reported _ rfl rfl
  · exact ⟨nofun, nofun⟩
  · exact reported _ rfl rfl

/-- A write of a part about to sleep wakes it, or merges nothing (R96, R143). -/
theorem powerStage_rest (h : s.SleepsWell) (w : WriteInProgress) (hn : s.NothingToWrite) :
    (s.powerStage w).drive.Awake ∨ (s.powerStage w).NothingToWrite := by
  obtain ⟨x, hx⟩ := Admits.total s w
  have keeps {a b : State} (p : a.Drives restless b) (ha : a.drive.Awake) : b.drive.Awake :=
    DriveStep.keeps (fun _ _ => .step id) p.path ha
  rw [hx.powerStage_eq]
  cases hx with
  | run x hp hx => exact .inl (keeps (hx.fenceStage_eq ▸ s.fenceStage_drives w) (h.awake_of_run hp))
  | drain x hp _ hx =>
    refine .inl (keeps (hx.fenceStage_eq ▸ s.withdrawSleep.fenceStage_drives w) ⟨?_, s.withdrawSleep_powerReq⟩)
    simp [drive, hp]
  | abort x hp _ hx =>
    refine .inl (keeps (hx.fenceStage_eq ▸ fenceStage_drives (s.abandonDrain .activity) w) ⟨?_, ?_⟩)
    · simp [drive, abandonDrain]
    · simpa [drive, abandonDrain] using s.withdrawSleep_powerReq
  | wakes => exact .inl (keeps (.same (by simp [heldFor])) (wakePart_awake s))
  | waits =>
    refine .inr (hn.step (.of_eq rfl) fun x hx => ?_)
    cases hx
    exact ⟨nofun, nofun⟩
  | refused => exact .inr (hn.step (.of_eq (by simp)) (hn.lane (s.refuseWrite_laneStep w _)))
  | unconfigured => exact .inr (hn.step (.of_eq (by simp)) (hn.lane (s.refuseWrite_laneStep w _)))

theorem recognise_rest (h : s.SleepsWell) (w : WriteInProgress) (hn : s.NothingToWrite) :
    (s.recognise w).drive.Awake ∨ (s.recognise w).NothingToWrite := by
  unfold recognise
  split
  case isTrue =>
    split
    case h_1 bs _ =>
      split
      case isTrue =>
        exact .inr (hn.step (s.consumeRecord_path w bs) fun x hx =>
          ⟨(s.consumeRecord_notHeld w bs x hx).2 _, (s.consumeRecord_notHeld w bs x hx).2 _⟩)
      case isFalse => exact powerStage_rest (s := s.raise .controlCheckFailed) (h.congr ⟨rfl, rfl⟩ rfl rfl) w (hn.congr rfl rfl)
    case h_2 => exact h.powerStage_rest w hn
  case isFalse => exact h.powerStage_rest w hn

theorem write (h : s.SleepsWell) : s.acceptNextWrite.SleepsWell := by
  refine h.move s.acceptNextWrite_drives fun _ hn => ?_
  unfold acceptNextWrite
  split
  case h_1 => exact .inr hn
  case h_2 req rest _ =>
    simp only [acceptWrite]
    generalize hw : { req := req, accepted := now _, hold := _, stage := .taking, decision := none : WriteInProgress } = w
    have hn' : ((s.withPort { s.port with waitWrites := rest }).setWrite (some w)).NothingToWrite := by
      refine hn.step (.of_eq rfl) fun x hx => ?_
      cases hx
      rw [← hw]
      exact ⟨nofun, nofun⟩
    have h' : ((s.withPort { s.port with waitWrites := rest }).setWrite (some w)).SleepsWell :=
      h.move (.same (by simp)) fun _ _ => .inr hn'
    split
    case isTrue => exact .inr (hn'.step (.of_eq (by simp)) (hn'.lane (refuseWrite_laneStep _ w _)))
    case isFalse => exact recognise_rest h' w hn'

end SleepsWell

theorem sleepsWell_kept : Kept SleepsWell where
  clearOut _ h := h.congr ⟨rfl, rfl⟩ rfl rfl
  pending _ _ h := h.congr ⟨rfl, rfl⟩ rfl rfl
  guard _ _ h := h.congr ⟨rfl, rfl⟩ rfl rfl
  presentRead _ _ _ _ h := h.congr ⟨rfl, rfl⟩ rfl rfl
  presentWrite _ _ h := h.congr ⟨rfl, rfl⟩ rfl rfl
  softReset s h _ := h.rest s.softResetEffect_drives s.softResetEffect_path s.softResetEffect_laneStep
  release _ h c := h.release c
  hazards s h := h.rest s.releaseHazards_drives.path s.releaseHazards_moves.path (.of_lanes s.releaseHazards_lanes)
  withdraw s h := h.rest s.withdrawSleep_drives.path (.of_eq (by simp)) (.of_port (by simp))
  grant _ h c := h.grant c
  answer s h _ := h.rest (.same (by simp)) (.of_eq (by simp)) s.answerOldest_laneStep
  drain _ h c := h.drain c
  safe s h c := by
    have e : s.power.st = .emergency := by
      simp only [safeDue, Bool.and_eq_true, decide_eq_true_eq] at c
      exact c.1
    exact h.rest (s.enterSafe_drives (by simp [e]) (by simp [e])).path (.of_eq (by simp)) (.of_lanes s.enterSafe_lanes)
  reply s h _ := h.rest (.same (by simp)) (.of_eq (by simp)) s.placeReply_laneStep
  read s h _ := by
    obtain ⟨-, hw, -⟩ := s.acceptNextRead_lanes
    exact h.move s.acceptNextRead_drives.path fun _ hn => .inr
      (hn.step s.acceptNextRead_moves.path (hw ▸ s.mergeHeld_eq_false_iff.mp hn.unheld))
  write _ h _ := h.write
  completeRead s b h := h.rest (s.completeRead_drives b).path (s.completeRead_moves b fun _ _ _ => trivial).path
    (.of_lanes (s.completeRead_lanes b))
  pollStatus s st h := h.rest (s.pollStatus_drives st).path (s.pollStatus_moves st).path (.of_port (by simp))
  deferred s h := h.rest s.deferredDue_drives.path (.of_eq (by simp)) (.of_port (by simp))
  suspendLimit s st h := h.rest (s.suspendLimit_drives st).path (s.suspendLimit_moves st).path (.of_lanes (s.suspendLimit_lanes st))
  timeLimit s h := h.rest s.timeLimit_drives.path s.timeLimit_moves.path (.of_lanes s.timeLimit_lanes)
  wakeEnd s st h := h.rest (s.wakeEndDue_drives st).path (s.wakeEndDue_moves st).path (s.wakeEndDue_laneStep st)
  startupLimit s h := h.rest (s.startupLimitDue_drives fun _ => h.ordered.startup).path s.startupLimitDue_moves.path
    s.startupLimitDue_laneStep
  hold s h := h.rest (.same (by simp)) (.of_eq (by simp)) s.holdExpired_laneStep
  idle s i h := h.rest (.same (by simp)) (s.idleExpired_moves i).path (.of_port (by simp))
  age s i h := h.rest (.same (by simp)) (s.ageExpired_moves i).path (.of_port (by simp))
  stale s q h := h.congr (by simp) (by simp) (by simp)
  drainExpired s h := h.rest s.drainExpired_drives.path (.of_eq (by simp)) (.of_port (by simp))
  overlay s h := h.rest s.overlayExpired_drives.path s.overlayExpired_moves.path (.of_lanes s.overlayExpired_lanes)
  increment s h := ⟨⟨h.ordered.request, fun e => h.ordered.startup (inStartupWait_grow s.seq.st ▸ e)⟩,
    h.quiet.imp (fun ha => ⟨ha.power, ha.request⟩) fun hn => ⟨hn.written, hn.unheld⟩⟩
  tickPoll s st h := h.rest (s.tickPoll_drives st fun _ => h.ordered.startup).path (s.tickPoll_moves st).path (s.tickPoll_laneStep st)
  subTick _ _ h := h.congr ⟨rfl, rfl⟩ rfl rfl
  draw _ h := h.congr ⟨rfl, rfl⟩ rfl rfl
  fuses s failed h := h.rest (.same (by simp only [completeFuses]; (repeat' split) <;> simp))
    (.of_eq (by simp only [completeFuses]; (repeat' split) <;> simp)) (s.completeFuses_laneStep failed)
  high s h := h.rest s.pwrwarnHigh_drives.path s.pwrwarnHigh_moves.path s.pwrwarnHigh_laneStep
  low s h := h.rest s.pwrwarnLow_drives.path (.of_eq (by simp)) (.of_port (by simp))

theorem sleepsWell_restarts : Restarts SleepsWell where
  tear s h := by
    obtain ⟨hg, hq, -, hp, hport⟩ := tearFuses_blocks s
    exact h.congr ⟨hq, hp⟩ hg (by rw [hport])
  powered _ _ h := h.congr ⟨rfl, rfl⟩ rfl rfl
  resetHeld _ _ h := h.congr ⟨rfl, rfl⟩ rfl rfl
  powerOn _ _ := ⟨⟨nofun, nofun⟩, .inl ⟨nofun, nofun⟩⟩
  startUp s st _ := by
    simp only [startUp]
    split
    case h_1 => exact ⟨⟨nofun, nofun⟩, .inl ⟨nofun, nofun⟩⟩
    case h_2 => exact sleepsWell_kept.wakeEnd _ st ⟨⟨nofun, nofun⟩, .inl ⟨nofun, nofun⟩⟩

end State

/-- Settles O8: the two clauses about unwritten data are kept as one, that the part is awake or has nothing to write. -/
theorem stepsKeepTheSleepLaw : Obligations.StepsKeepTheSleepLaw := by
  intro s t
  rw [State.sleepLaw_iff, State.sleepLaw_iff]
  exact State.sleepsWell_kept.step State.sleepsWell_restarts

end Sys2Proof.Machine
end

section
/-! SUPPORT. The step of the block and the settling of an event, effect by effect (log entries 1 and 4). -/

namespace Sys2Proof.Machine

/-- Settles O1. -/
theorem stepRunsTheFrontCommand : Obligations.StepRunsTheFrontCommand := by
  intro c rest s h
  rw [step, h]

/-- Settles O4, by evaluation of the reset state. -/
theorem resetValues : Obligations.ResetValues := by
  unfold Obligations.ResetValues
  decide

/-! ### Every command is an event (log entry 1) -/

theorem startUp_pending (s : State) (st : Byte) : (s.startUp st).pending = s.pending := by
  have blank : s.powerOnValues.readFuses.pending = s.pending := rfl
  simp only [State.startUp]
  split <;> simpa using blank

theorem losePower_pending (s : State) : s.losePower.pending = s.pending := s.tearFuses_frame

theorem assertReset_pending (s : State) : s.assertReset.pending = s.pending := s.tearFuses_frame

theorem gainPower_pending (s : State) (st : Byte) : (s.gainPower st).pending = s.pending := by
  simp only [State.gainPower]
  split
  · rfl
  · exact startUp_pending ..

theorem releaseReset_pending (s : State) (st : Byte) : (s.releaseReset st).pending = s.pending := by
  simp only [State.releaseReset]
  split_ifs
  · exact startUp_pending ..
  · rfl
  · rfl

theorem tickBody_pending (s : State) (st : Byte) : (tickBody st s).pending = s.pending := by
  have entries (x : State) : (takeEntryExpiries x).pending = x.pending := State.foldl_keeps _ _ (fun x i => by simp) _ x
  simp [tickBody, takeDue, entries, State.increment]

/-- Every command answers the state its event ends in, and its body leaves the waiting commands as they are. -/
theorem exec_eq_event (c : Instr) (s : State) :
    ∃ body : State → State, exec c s = .next (event body s) ∧ ∀ u, (body u).pending = u.pending := by
  cases c <;> refine ⟨_, rfl, fun u => ?_⟩
  case powerLoss => exact losePower_pending u
  case powerOn =>
    rw [gainPower_pending]
    split
    · exact losePower_pending u
    · rfl
  case resetPinAssertion => exact assertReset_pending u
  case resetPinRelease => exact releaseReset_pending ..
  case tick =>
    unfold State.oneTick
    split
    · exact tickBody_pending ..
    · rfl
  case readAnswer => split <;> simp
  case grant => split <;> simp
  case writeRelease => split <;> simp
  case drainCompletion => split <;> simp
  case safeConditionMet => split <;> simp
  case softResetTakesEffect => split <;> simp
  all_goals simp

/-- An effect that is due in front of the answer of the oldest read hides it; where none is, the read is answered (R86). -/
theorem settleOnce_answers {s : State} {r : Read} {rest : List Read} {x : ReadResult} (hreads : s.port.reads = r :: rest)
    (hstage : r.stage = .resolved x) (hreset : s.softResetDue = false) (hrelease : s.canReleaseWrite = false)
    (hhazard : s.canReleaseHazard = false) (hspoiled : s.sleepSpoiled = false) (hgrant : s.canGrant = false)
    (hdrain : s.drainDue = false) (hsafe : s.safeDue = false) (hreply : s.canPlaceReply = false) :
    settleOnce s = some s.answerInTurn := by
  have hanswer : s.canAnswer = true := by
    obtain ⟨tag, req, decision, stage⟩ := r
    subst hstage
    simp only [State.canAnswer, hreads]
  simp only [settleOnce, hreset, hrelease, hhazard, hspoiled, hgrant, hdrain, hsafe, hreply, hanswer, Bool.false_eq_true,
    if_false, if_true]

theorem answerOldest_resolved {s : State} {r : Read} {rest : List Read} {x : ReadResult} (hreads : s.port.reads = r :: rest)
    (hstage : r.stage = .resolved x) : s.answerOldest = (s.setReads rest).answerRead r x := by
  obtain ⟨tag, req, decision, stage⟩ := r
  subst hstage
  simp only [State.answerOldest, hreads]

/-- An answer to a read leaves the lanes but for the last refusal record. -/
theorem answerRead_port (s : State) (r : Read) (x : ReadResult) :
    ∃ l, (s.answerRead r x).port = { s.port with lastRefusal := l } := by
  unfold State.answerRead
  split
  case h_1 => exact ⟨s.port.lastRefusal, by simp⟩
  case h_2 => exact ⟨_, by simp [State.recordRefusal]; rfl⟩

theorem canAcceptRead_iff (s : State) :
    s.canAcceptRead = true ↔ s.port.lanesOpen = true ∧ s.port.reads.length < 4 ∧ s.port.waitReads ≠ [] := by
  simp only [State.canAcceptRead, Bool.and_eq_true, decide_eq_true_eq, Bool.not_eq_true', List.isEmpty_eq_false_iff, and_assoc]
  exact Iff.rfl

/-- Settles O3: every command is an event, and the order of the effects is that of `settleOnce`. -/
theorem eventsSettleEffectByEffect : Obligations.EventsSettleEffectByEffect := by
  refine ⟨fun c s => ?next, fun s s' n h => settleN_step h n, fun s n h => settleN_of_atRest h n, atRest_iff,
    fun s r rest x hreads hstage h1 h2 h3 h4 h5 h6 h7 h8 => ?answers⟩
  case next =>
    obtain ⟨body, hexec, hpending⟩ := exec_eq_event c s
    obtain ⟨-, -, -, hsettle⟩ := settle_frame (body s.clearOut)
    exact ⟨_, hexec, hsettle.trans (hpending _)⟩
  case answers =>
    intro answered
    obtain ⟨l, hport⟩ := answerRead_port (s.setReads rest) r x
    have hdue : answered.canAcceptRead = true ↔
        s.port.lanesOpen = true ∧ answered.port.reads.length < 4 ∧ s.port.waitReads ≠ [] := by
      rw [canAcceptRead_iff, show answered.port = _ from hport]
      rfl
    rw [settleOnce_answers hreads hstage h1 h2 h3 h4 h5 h6 h7 h8, State.answerInTurn, answerOldest_resolved hreads hstage]
    exact congrArg some (if_congr hdue rfl rfl)

/-! ### A microsecond on an empty queue (R155, log entry 4) -/

/-- Whether the table has a place for an allocation does not depend on the tick. -/
theorem Staging.place_isSome (g : Staging) (now now' : Tick) : (g.place now).isSome = (g.place now').isSome := by
  have h : (pickOldest cleanUse now 0 g.entries = none) ↔ (pickOldest cleanUse now' 0 g.entries = none) :=
    pickOldest_eq_none_iff.trans pickOldest_eq_none_iff.symm
  unfold Staging.place
  cases g.entries.findIdx? Entry.isFree with
  | some i => rfl
  | none =>
    rw [Option.isSome_map, Option.isSome_map, Bool.eq_iff_iff, Option.isSome_iff_ne_none, Option.isSome_iff_ne_none]
    exact not_congr h

theorem canReleaseWrite_withTime (s : State) (t : Timebase) : (s.withTime t).canReleaseWrite = s.canReleaseWrite := by
  simp only [State.canReleaseWrite, State.withTime_port, State.withTime_power, State.withTime_staging]
  cases s.port.write with
  | none => rfl
  | some w =>
    obtain ⟨req, accepted, hold, stage, decision⟩ := w
    cases stage with
    | held c =>
      cases c with
      | noEntry => exact s.staging.place_isSome _ _
      | _ => rfl
    | _ => rfl

/-- The timebase makes nothing due. -/
theorem withTime_atRest {s : State} (h : s.atRest) (t : Timebase) : (s.withTime t).atRest := by
  obtain ⟨hreset, hrelease, hrest⟩ := (atRest_iff s).mp h
  exact (atRest_iff _).mpr ⟨hreset, (canReleaseWrite_withTime s t).trans hrelease, hrest⟩

theorem draw_atRest {s : State} (h : s.atRest) : s.draw.atRest := (atRest_iff _).mpr ((atRest_iff s).mp h)

/-- The tick that the increment of an event reaches, where the sequencer counts no busy tick. -/
theorem increment_of_grow {s : State} (h : s.seq.st.grow = s.seq.st) : s.clearOut.increment =
    s.clearOut.withTime { tick := s.time.tick + 1, subTick := 0, timing := s.time.timing } := by
  simp only [State.increment, State.clearOut_seq, h]
  rfl

/-- Where nothing falls due and the sequencer counts and polls nothing, a tick advances the timebase alone. -/
theorem tickBody_of_noneDue {s : State} (h : s.NoneDue) (st : Byte) (hbusy : ∀ op, s.seq.st ≠ .busy op)
    (hresuming : ∀ op, s.seq.st ≠ .resuming op) (hstalled : s.seq.st ≠ .stalled)
    (hstartup : ∀ t r, s.seq.st ≠ .startupWait t r) :
    tickBody st s.clearOut =
      s.clearOut.withTime { tick := s.time.tick + 1, subTick := 0, timing := s.time.timing } := by
  have hgrow : s.seq.st.grow = s.seq.st := by
    cases e : s.seq.st with
    | busy op => exact absurd e (hbusy op)
    | resuming op => exact absurd e (hresuming op)
    | _ => rfl
  have hincrement := increment_of_grow hgrow
  have hpoll : s.clearOut.increment.tickPoll st = s.clearOut.increment := by
    rw [hincrement]
    unfold State.tickPoll
    split
    case h_1 e => exact absurd e hstalled
    case h_2 e => exact absurd e (hstartup _ _)
    case h_3 => rfl
  rw [tickBody, hpoll, takeDue_of_noneDue h, hincrement]

/-- Settles O2: the microsecond of a part at rest, by whether it runs and reaches the prescaler. -/
theorem emptyQueueIsAMicrosecond : Obligations.EmptyQueueIsAMicrosecond := by
  intro s hqueue hrest
  have hrest' : s.clearOut.atRest := clearOut_atRest hrest
  have hstep {x : State} (hx : s.clearOut.microsecond = x) (hxrest : x.atRest) : step s = .next x := by
    subst hx
    rw [step, hqueue]
    exact congrArg Host.Outcome.next (event_of_atRest hxrest)
  refine ⟨fun hrun hbelow => ?below, fun hnone hreached hbusy hresuming hstalled hstartup => ?tick, fun hrun => ?off⟩
  case below =>
    have hrun' : s.clearOut.running = true := hrun
    refine hstep ?_ (withTime_atRest hrest' _)
    rw [State.microsecond, if_pos hrun']
    exact if_pos hbelow
  case tick =>
    have hrun' : s.clearOut.running = true := hnone.running
    refine hstep ?_ (draw_atRest (withTime_atRest hrest' _))
    rw [State.microsecond, if_pos hrun']
    exact (if_neg (Nat.not_lt.mpr hreached)).trans
      (congrArg State.draw (tickBody_of_noneDue hnone _ hbusy hresuming hstalled hstartup))
  case off =>
    have hrun' : ¬ s.clearOut.running = true := by rw [show s.clearOut.running = false from hrun]; exact Bool.false_ne_true
    refine hstep ?_ hrest'
    rw [State.microsecond, if_neg hrun']

/-! ### The laws at reset -/

theorem reset_entry (i : Nat) : State.reset.staging.entry i = .free := Staging.initial_entry i

/-- Settles O5: the tables are empty, no timer runs, no write waits. -/
theorem lawsHoldAtReset : Obligations.LawsHoldAtReset := by
  refine ⟨?staging, ?capture, ?sleep, ?timer, ?size⟩
  case staging =>
    have hfree : ∀ e ∈ State.reset.staging.entries, e = .free := fun e he => (List.mem_replicate.mp he).2
    exact {
      count := List.length_replicate
      images := fun e he d hd => by
        rw [hfree e he] at hd
        cases hd
      clean := fun d hd => by cases hfree _ hd
      sectors := by decide
      queued := .nil
      queue := fun i => by
        rw [reset_entry]
        exact ⟨nofun, nofun⟩
      committing := by decide
      fills := nofun
      page := nofun
      write := nofun
      waiting := nofun }
  case capture => exact ⟨⟨Nat.zero_le _, nofun⟩, ⟨Nat.zero_le _, nofun⟩⟩
  case sleep => exact ⟨nofun, nofun, nofun, nofun⟩
  case timer =>
    exact {
      settings := by decide
      spacing := by decide
      wake := nofun
      startup := nofun
      suspend := nofun
      deferred := nofun
      limit := nofun
      hold := fun w c h => by cases h
      idle := fun i _ => by
        rw [reset_entry]
        exact nofun
      age := fun i _ => by
        rw [reset_entry]
        exact nofun
      stale := fun q => by cases q <;> exact nofun
      drain := nofun
      reply := nofun }
  case size => exact ⟨rfl, rfl, rfl, Nat.zero_le _, rfl, rfl, rfl, rfl⟩

end Sys2Proof.Machine
end

section
/-! SUPPORT. A control record's event as far as its command (R166, R169), the reply that is placed (R170), and the commands that alter one unit alone: IDENTIFY, the policies and the latch slots (R172, R79, R152, R138, R139). -/

namespace Sys2Proof.Machine

/-! ### Every row's record is executed with its operands -/

/-- A record presented to a part ready for it runs to what its command leaves. -/
theorem record_runs {c : Instr} {s : State} {line : Addr} {code : Byte} {args : List Byte} {r : CommandResult}
    (h : s.ReadyFor line) (hc : exec c s = .next (event (fun s => s.presentRecord line code args) s))
    (hx : execCode (roomAt (lineOf line)) code (padTo 53 args) (s.clearOut.executing line code args) = r) :
    Runs c s (finishCommand code r) := by
  subst hx
  exact runs_of_step hc (record_accepted h.clearOut code args)

/-- The same with the level of GUARD in the event. -/
theorem guardedRecord_runs {c : Instr} {s : State} {line : Addr} {g : Bool} {code : Byte} {args : List Byte}
    {r : CommandResult} (h : s.ReadyFor line)
    (hc : exec c s = .next (event (fun s => (s.setGuard g).presentRecord line code args) s))
    (hx : execCode (roomAt (lineOf line)) code (padTo 53 args) ((s.clearOut.setGuard g).executing line code args) = r) :
    Runs c s (finishCommand code r) := by
  subst hx
  exact runs_of_step hc (record_accepted (h.clearOut.setGuard g) code args)

/-- Settles O13, row by row of Table 11-4. -/
theorem recordsCarryTheirArguments : Obligations.RecordsCarryTheirArguments := by
  refine ⟨⟨by simp [crc16, crcByte, crcShift], by simp [crc16, crcByte, crcShift]⟩, fun s line h => ?_⟩
  intro room ready guarded
  refine ⟨?identify, ?readStatus, ?softReset, ?setTiming, ?clearEvents, ?setEventEnables, ?setRule, ?readRule, ?setDefault,
    ?setFence, ?setLock, ?setQueue, ?fetchCapture, ?ackCapture, ?fetchSlot, ?releaseSlot, ?flush, ?listFaults, ?faultRetry,
    ?faultDiscard, ?setFlashPolicy, ?sleep, ?wake, ?setPowerPolicy, ?programFuse, ?lockFuse, ?unknown⟩
  case identify => exact record_runs h rfl (execCode_identify ..)
  case readStatus => exact fun x g => guardedRecord_runs h rfl (execCode_readStatus ..)
  case softReset => exact fun x => record_runs h rfl (execCode_softReset ..)
  case setTiming => exact fun x => record_runs h rfl (execCode_setTiming ..)
  case clearEvents => exact fun x => record_runs h rfl (execCode_clearEvents ..)
  case setEventEnables => exact fun x => record_runs h rfl (execCode_setEventEnables ..)
  case setRule => exact fun x g => guardedRecord_runs h rfl (execCode_setRule ..)
  case readRule => exact fun x g => guardedRecord_runs h rfl (execCode_readRule ..)
  case setDefault => exact fun x y g => guardedRecord_runs h rfl (execCode_setDefault ..)
  case setFence => exact fun x y z g => guardedRecord_runs h rfl (execCode_setFence ..)
  case setLock => exact fun x g => guardedRecord_runs h rfl (execCode_setLock ..)
  case setQueue => exact fun x y z => record_runs h rfl (execCode_setQueue ..)
  case fetchCapture => exact fun x y => record_runs h rfl (execCode_fetchCapture ..)
  case ackCapture => exact fun x n => record_runs h rfl (execCode_ackCapture ..)
  case fetchSlot => exact fun x => record_runs h rfl (execCode_fetchSlot ..)
  case releaseSlot => exact fun x => record_runs h rfl (execCode_releaseSlot ..)
  case flush => exact fun x n => record_runs h rfl (execCode_flush ..)
  case listFaults => exact record_runs h rfl (execCode_listFaults ..)
  case faultRetry => exact fun n => record_runs h rfl (execCode_faultRetry ..)
  case faultDiscard => exact fun n => record_runs h rfl (execCode_faultDiscard ..)
  case setFlashPolicy => exact fun x => record_runs h rfl (execCode_setFlashPolicy ..)
  case sleep => exact record_runs h rfl (execCode_sleep ..)
  case wake => exact record_runs h rfl (execCode_wake ..)
  case setPowerPolicy => exact fun x y z => record_runs h rfl (execCode_setPowerPolicy ..)
  case programFuse => exact fun x y z d hd => record_runs h rfl (execCode_programFuse ..)
  case lockFuse => exact fun x => record_runs h rfl (execCode_lockFuse ..)
  case unknown => exact fun x hx => record_runs h rfl (execCode_unknown (h := hx) ..)

/-! ### Commands that leave nothing else due -/

section
variable {s : State} {line : Addr} {code : Byte} {args : List Byte} (h : s.ReadyFor line)
include h

/-- A command that alters nothing settling looks at runs as one event: its effect, its reply, its answer. -/
theorem quietRecord_event {s1 : State} {r : Reply}
    (hx : execCode (roomAt (lineOf line)) code (padTo 53 args) (s.clearOut.executing line code args) = (s1, some r))
    (hp : s1.port = (s.clearOut.executing line code args).port) (q : s.clearOut.Quiet s1) :
    event (fun s => s.presentRecord line code args) s = (s1.withPort s.port).replied line code r :=
  record_quiet h.clearOut code args hx hp q

/-- A refused command leaves the part as it was but for the reply. -/
theorem refusedRecord_event {x : Status} {payload : List Byte}
    (hx : execCode (roomAt (lineOf line)) code (padTo 53 args) (s.clearOut.executing line code args) =
      refuse (s.clearOut.executing line code args) x payload) :
    event (fun s => s.presentRecord line code args) s = s.clearOut.repliedRefused line code x payload :=
  quietRecord_event h hx rfl ⟨rfl, rfl, rfl, rfl, rfl, rfl, rfl, rfl⟩

end

section
variable {s u : State} {line : Addr} {code : Byte} {args : List Byte} {g : Bool} (h : s.ReadyFor line)
  (hu : u = s.clearOut.setGuard g)
include h hu

/-- The same with the level of GUARD in the event. -/
theorem guardedQuiet_event {s1 : State} {r : Reply}
    (hx : execCode (roomAt (lineOf line)) code (padTo 53 args) (u.executing line code args) = (s1, some r))
    (hp : s1.port = (u.executing line code args).port) (q : u.Quiet s1) :
    event (fun s => (s.setGuard g).presentRecord line code args) s = (s1.withPort s.port).replied line code r := by
  subst hu
  exact record_quiet (h.clearOut.setGuard g) code args hx hp q

theorem guardedRefused_event {x : Status} {payload : List Byte}
    (hx : execCode (roomAt (lineOf line)) code (padTo 53 args) (u.executing line code args) =
      refuse (u.executing line code args) x payload) :
    event (fun s => (s.setGuard g).presentRecord line code args) s = u.repliedRefused line code x payload := by
  subst hu
  exact guardedQuiet_event h rfl hx rfl ⟨rfl, rfl, rfl, rfl, rfl, rfl, rfl, rfl⟩

end

/-! ### The reply (R170, Table 11-6) and IDENTIFY (R172) -/

theorem bitsByte_pair (x y : Bool) :
    bitsByte [x, y] = (if x = true then 0x01 else 0x00) + (if y = true then 0x02 else 0x00) := by
  cases x <;> cases y <;> rfl

theorem tickAfter_eq (now : Tick) (x : Half) : tickAfter now x.toNat = now + x.setWidth 32 := by
  rw [tickAfter, BitVec.ofNat_toNat]

/-- Settles O14: the placed reply field by field, and the two commands that change nothing. -/
theorem identifyAndUnknownCommand : Obligations.IdentifyAndUnknownCommand := by
  refine ⟨fun s line code r => ?reply, rfl, fun s line h => ⟨?identify, fun code hcode => ?unknown⟩⟩
  case reply =>
    intro at0 room carried cut o
    have hcount : o.count = (o.bytes.length + 63) / 64 := rfl
    refine ⟨rfl, rfl, ?bytes, ?low, ?high, ?expiry⟩
    case bytes =>
      simp only [o, replyOverlay, bitsByte_pair, Bool.or_eq_true, decide_eq_true_eq]
      rfl
    case low =>
      rw [hcount]
      omega
    case high =>
      rw [hcount]
      omega
    case expiry => exact tickAfter_eq ..
  case identify => exact congrArg Host.Outcome.next (quietRecord_event h (execCode_identify ..) rfl ⟨rfl, rfl, rfl, rfl, rfl, rfl, rfl, rfl⟩)
  case unknown => exact congrArg Host.Outcome.next (refusedRecord_event h (execCode_unknown (h := hcode) ..))

/-! ### The two policies (R79, R152) -/

theorem boolArg_eq (b : Byte) : boolArg b = if b.toNat ≤ 1 then some (decide (b = 0x01)) else none := by
  split
  case isTrue hb =>
    have hbit : b = 0x00 ∨ b = 0x01 := by bv_omega
    obtain rfl | rfl := hbit <;> rfl
  case isFalse hb =>
    have hne : b ≠ 0x00 ∧ b ≠ 0x01 := by bv_omega
    rw [boolArg, if_neg hne.1, if_neg hne.2]

theorem yesNo_bit {b : Byte} (h : b.toNat ≤ 1) : yesNo (decide (b = 0x01)) = b := by
  have hbit : b = 0x00 ∨ b = 0x01 := by bv_omega
  obtain rfl | rfl := hbit <;> rfl

theorem policyOf_eq (p : PolicyArgs) : policyOf p =
    if p.suspendEnable.toNat ≤ 1 ∧ p.eraseBudget.toNat ≤ 7 ∧ p.programBudget.toNat ≤ 3 ∧ p.verifyEnable.toNat ≤ 1 ∧
      1 ≤ p.commitShare.toNat ∧ p.commitShare.toNat ≤ 64 then
      some { suspendEnable := decide (p.suspendEnable = 0x01), eraseBudget := p.eraseBudget.toNat,
             programBudget := p.programBudget.toNat, resumeSpacing := p.resumeSpacing.toNat,
             verifyEnable := decide (p.verifyEnable = 0x01), commitShare := p.commitShare.toNat }
    else none := by
  have hrest : (7 < p.eraseBudget.toNat ∨ 3 < p.programBudget.toNat ∨ p.commitShare = 0 ∨ 64 < p.commitShare.toNat) ↔
      ¬ (p.eraseBudget.toNat ≤ 7 ∧ p.programBudget.toNat ≤ 3 ∧ 1 ≤ p.commitShare.toNat ∧ p.commitShare.toNat ≤ 64) := by
    bv_omega
  simp only [policyOf, boolArg_eq, hrest]
  by_cases hs : p.suspendEnable.toNat ≤ 1
  case neg => simp only [hs, false_and, if_false]
  case pos =>
    by_cases hv : p.verifyEnable.toNat ≤ 1
    case neg => simp only [hs, hv, false_and, and_false, if_false, if_true]
    case pos =>
      simp only [hs, hv, true_and, if_true]
      split_ifs <;> rfl

theorem cmdSetPowerPolicy_eq (x y z : Byte) (s : State) : cmdSetPowerPolicy x y z s =
    if x.toNat ≤ 1 ∧ y.toNat ≤ 1 ∧ z.toNat ≤ 1 then
      accept (s.withPower { s.power with policy :=
        { refuseInSleep := decide (x = 0x01), drainAbort := decide (y = 0x01), deepSleep := decide (z = 0x01) } }) [x, y, z]
    else refuse s .refusedRange [] := by
  simp only [cmdSetPowerPolicy, boolArg_eq]
  by_cases hx : x.toNat ≤ 1
  case neg => simp only [hx, false_and, if_false]
  case pos =>
    by_cases hy : y.toNat ≤ 1
    case neg => simp only [hx, hy, false_and, and_false, if_false, if_true]
    case pos =>
      by_cases hz : z.toNat ≤ 1
      case neg => simp only [hx, hy, hz, and_false, if_false, if_true]
      case pos => simp only [hx, hy, hz, true_and, if_true, yesNo_bit]

/-- Settles O29: each policy is one field of one unit, and settling looks at neither. -/
theorem policiesAreReplacedWhole : Obligations.PoliciesAreReplacedWhole := by
  constructor
  case left =>
    intro s line p h
    have hx := execCode_setFlashPolicy (room := roomAt (lineOf line)) (s := s.clearOut.executing line 0x50 (policyArgBytes p)) p
    rw [cmdSetFlashPolicy, policyOf_eq] at hx
    refine congrArg Host.Outcome.next ?_
    split_ifs at hx ⊢
    case pos => exact quietRecord_event h hx rfl ⟨rfl, rfl, rfl, rfl, rfl, rfl, rfl, rfl⟩
    case neg => exact refusedRecord_event h hx
  case right =>
    intro s line x y z h
    have hx := execCode_setPowerPolicy (room := roomAt (lineOf line)) (s := s.clearOut.executing line 0x62 [x, y, z]) x y z
    rw [cmdSetPowerPolicy_eq] at hx
    refine congrArg Host.Outcome.next ?_
    split_ifs at hx ⊢
    case pos => exact quietRecord_event h hx rfl ⟨rfl, rfl, rfl, rfl, rfl, rfl, rfl, rfl⟩
    case neg => exact refusedRecord_event h hx

/-! ### The latch slots (R138, R139) -/

/-- Settles O25. -/
theorem slotCommands : Obligations.SlotCommands := by
  refine ⟨fun draws n x => ⟨fun hnone => ?empty, fun r hr => ?full⟩, fun s line n h => ?commands⟩
  case empty =>
    refine ⟨freeBytes draws 2 10, by rw [freeBytes, List.length_map, List.length_range], ?_⟩
    rw [slotBytes, hnone]
    cases x.isNew <;> rfl
  case full =>
    simp only [slotBytes, hr, bitsByte_pair]
    cases x.isNew <;> rfl
  case commands =>
    intro x
    have hrange : 7 < n.toNat ↔ ¬ n.toNat ≤ 7 := Nat.not_le.symm
    constructor
    case left =>
      have hx := execCode_fetchSlot (room := roomAt (lineOf line)) (s := s.clearOut.executing line 0x33 [n]) n
      simp only [cmdFetchSlot, hrange, ite_not] at hx
      refine congrArg Host.Outcome.next ?_
      split_ifs at hx ⊢
      case pos => exact quietRecord_event h hx rfl ⟨rfl, rfl, rfl, rfl, rfl, rfl, rfl, rfl⟩
      case neg => exact refusedRecord_event h hx
    case right =>
      have hx := execCode_releaseSlot (room := roomAt (lineOf line)) (s := s.clearOut.executing line 0x34 [n]) n
      simp only [cmdReleaseSlot, hrange, ite_not] at hx
      refine congrArg Host.Outcome.next ?_
      split_ifs at hx ⊢
      case pos => exact quietRecord_event h hx rfl ⟨rfl, rfl, rfl, rfl, rfl, rfl, rfl, rfl⟩
      case neg => exact refusedRecord_event h hx

end Sys2Proof.Machine
end

section
/-! SUPPORT. The flash window and the fence (R82, R83, R104, R105, R107), and the event flags and output lines (R153, R160, R161). -/

namespace Sys2Proof.Machine

/-! ### The window (R82, R83, R178) -/

theorem beyondWindow_iff (s : State) (a : Nat) : s.beyondWindow a = true ↔ ∃ f, s.windowSize = some f ∧ f ≤ a := by
  unfold State.beyondWindow
  cases s.windowSize <;> simp

theorem badSpan_iff (s : State) (req : WriteReq) : s.badSpan req = true ↔ 64 < req.offset + req.bytes.length ∨
    (∀ b ∈ req.bytes, b = none) ∨ s.pastWindow req.line req.offset req.bytes.length = true := by
  have hselects : selectsByte req.bytes = false ↔ ∀ b ∈ req.bytes, b = none := by
    simp [selectsByte, List.any_eq_false]
  simp only [State.badSpan, crossesLine, Bool.or_eq_true, decide_eq_true_eq, Bool.not_eq_true', hselects, or_assoc]
  exact Iff.rfl

theorem windowSize_of_profile {s : State} {p : List Byte} (h : s.profile = some p) :
    s.windowSize = some (flashSize (byteAt p 0).toNat) := by rw [State.windowSize, h]; rfl

/-! ### The fence's area (R104, R105) -/

theorem fenceExtent_le (f n : Nat) : fenceExtent f n ≤ f := by
  unfold fenceExtent
  split
  · exact Nat.zero_le _
  · exact Nat.div_le_self ..

theorem inFence_iff {s : State} {f : Nat} (h : s.windowSize = some f) (line : Addr) :
    s.inFence line = true ↔ (s.rule.fence.area f).1 ≤ line.toNat ∧ line.toNat < (s.rule.fence.area f).2 := by
  simp only [State.inFence, h, Bool.and_eq_true, decide_eq_true_eq]

/-- Settles O42: the window of the profile in use, and the four forms of the fence's area. -/
theorem fenceProtectsItsArea : Obligations.FenceProtectsItsArea := by
  refine ⟨fun s => ⟨fun h => ?noProfile, fun p h x hx he => ?sizes, fun line offset length => beyondWindow_iff s _, badSpan_iff s,
    fun n => beyondWindow_iff s _⟩, fun s f line hf hsize => ?area⟩
  case noProfile => rw [State.windowSize, h]; rfl
  case sizes =>
    rw [windowSize_of_profile h, he]
    fin_cases hx <;> rfl
  case area =>
    have hin := inFence_iff hf line
    have hle := fenceExtent_le f s.rule.fence.size
    intro n e low high
    refine ⟨fun hside hinvert => ?_, fun hside hinvert => ?_, fun hside hinvert => ?_, fun hside hinvert => ?_⟩
    all_goals
      rw [hin, Fence.area, hside, hinvert]
      simp only [low, high, Nat.zero_le, true_and, Nat.not_lt]
      exact Iff.rfl

/-! ### SET-FENCE (R107) -/

theorem sideArg_eq (b : Byte) : sideArg b = if b.toNat ≤ 1 then some (if b = 0x01 then .high else .low) else none := by
  split
  case isTrue hb =>
    have hbit : b = 0x00 ∨ b = 0x01 := by bv_omega
    obtain rfl | rfl := hbit <;> rfl
  case isFalse hb =>
    have hne : b ≠ 0x00 ∧ b ≠ 0x01 := by bv_omega
    rw [sideArg, if_neg hne.1, if_neg hne.2]

theorem fenceArg_eq (size side invert : Byte) : fenceArg size side invert =
    if 7 < size.toNat ∨ 1 < side.toNat ∨ 1 < invert.toNat then none
    else some { size := size.toNat, side := if side = 0x01 then .high else .low, invert := decide (invert = 0x01) } := by
  have hbit (b : Byte) : 1 < b.toNat ↔ ¬ b.toNat ≤ 1 := Nat.not_le.symm
  simp only [fenceArg, sideArg_eq, boolArg_eq, hbit]
  by_cases hs : side.toNat ≤ 1
  case neg => simp only [hs, not_false_iff, true_or, or_true, if_true, if_false]
  case pos =>
    by_cases hi : invert.toNat ≤ 1
    case neg => simp only [hs, hi, not_false_iff, or_true, if_true, if_false]
    case pos => simp only [hs, hi, not_true, or_false, if_true]

/-- Where the fence protects nothing, the first sector is any value (log entry 9). -/
theorem fenceBytes_empty {s : State} {f : Fence} {k : Nat}
    (h : ∀ w, s.windowSize = some w → ((f.area w).2 - (f.area w).1) / 4096 = 0) :
    ∃ a b : Byte, fenceBytes s f k = [byteOf f.size, f.side.code, yesNo f.invert] ++ [a, b, 0x00, 0x00] := by
  refine ⟨Config.freeByte s.draws (k + 0), Config.freeByte s.draws (k + 1), ?_⟩
  unfold fenceBytes
  cases hw : s.windowSize with
  | none =>
    simp only [Nat.sub_zero, Nat.zero_div, if_true]
    rfl
  | some w =>
    simp only [Config.sectorBytes, h w hw, if_true]
    rfl

/-- Settles O20: the area's bytes by the form of the fence, and the command's checks in their order. -/
theorem setFenceReplacesTheFence : Obligations.SetFenceReplacesTheFence := by
  refine ⟨fun s f k hsize => ?bytes, fun s line size side invert g h => ?command⟩
  case bytes =>
    intro opens empty
    have hopens : [byteOf f.size, f.side.code, yesNo f.invert] = opens := by
      cases hside : f.side <;> cases hinvert : f.invert <;> simp only [opens, hside, hinvert] <;> rfl
    refine ⟨fun hnone => ?none, fun w hw => ?some⟩
    case none =>
      have hempty := fenceBytes_empty (s := s) (f := f) (k := k) fun w hw => by rw [hnone] at hw; cases hw
      rwa [hopens] at hempty
    case some =>
      intro e first sectors
      have harea : (f.area w).1 = first ∧ (f.area w).2 - (f.area w).1 = if f.invert = true then w - e else e := by
        have hle : e ≤ w := fenceExtent_le w f.size
        have he : fenceExtent w f.size = e := rfl
        cases hside : f.side <;> cases hinvert : f.invert <;> simp [Fence.area, first, hside, hinvert, he]
        omega
      obtain ⟨hfirst, hcount⟩ := harea
      refine ⟨fun hzero => ?zero, fun hsome => ?protects⟩
      case zero =>
        have hempty := fenceBytes_empty (s := s) (f := f) (k := k) fun w' hw' => by
          rw [hw] at hw'
          cases hw'
          rwa [hcount]
        rwa [hopens] at hempty
      case protects =>
        have hsectors : ((f.area w).2 - first) / Config.sectorBytes = sectors := hfirst ▸ congrArg (· / 4096) hcount
        simp only [fenceBytes, hw, hopens, hfirst, hsectors, if_neg hsome]
        rfl
  case command =>
    intro u f
    have hlock : u.rule.forbidsChange = true ↔ s.rule.lock = .frozen ∨ (s.rule.lock = .guarded ∧ g = false) :=
      u.rule.forbidsChange_iff
    have hx := execCode_setFence (room := roomAt (lineOf line)) (s := u.executing line 0x23 [size, side, invert]) size side invert
    rw [cmdSetFence, fenceArg_eq] at hx
    refine congrArg Host.Outcome.next ?_
    split_ifs with hfuse hforbids hrange hdirty
    case pos => exact guardedRefused_event h rfl (hx.trans (if_pos hfuse))
    case pos => exact guardedRefused_event h rfl (hx.trans ((if_neg hfuse).trans (if_pos (hlock.mpr hforbids))))
    case pos =>
      rw [if_pos hrange] at hx
      exact guardedRefused_event h rfl (hx.trans ((if_neg hfuse).trans (if_neg (mt hlock.mp hforbids))))
    all_goals
      rw [if_neg hrange] at hx
      replace hx := hx.trans ((if_neg hfuse).trans (if_neg (mt hlock.mp hforbids)))
    case pos => exact guardedRefused_event h rfl (hx.trans (if_pos hdirty))
    case neg =>
      exact guardedQuiet_event h rfl (hx.trans (if_neg hdirty)) rfl ⟨rfl, rfl, rfl, rfl, rfl, rfl, rfl, rfl⟩

/-! ### The event flags and the output lines (R153, R160, R161) -/

/-- The events in the order of Table 11-2. -/
def eventOrder : List Event :=
  [.captureWatermark .a, .captureWatermark .b, .captureFull .a, .captureFull .b, .captureDropped .a, .captureDropped .b,
   .captureStale .a, .captureStale .b, .slotFilled, .urgentAccess, .accessRefused, .holdExpired, .mediaFault, .flashStall,
   .retryHalf, .sleepEntered, .sleepFailed, .powerWarning, .safeReached, .controlCheckFailed, .startupResumed]

theorem eventOrder_eventBit (e : Event) : eventOrder[eventBit e]? = some e := by
  cases e
  case captureWatermark q => cases q <;> rfl
  case captureFull q => cases q <;> rfl
  case captureDropped q => cases q <;> rfl
  case captureStale q => cases q <;> rfl
  all_goals rfl

theorem eventBit_injective {e x : Event} (h : eventBit e = eventBit x) : e = x :=
  Option.some.inj (by rw [← eventOrder_eventBit, h, eventOrder_eventBit])

theorem eventBit_lt (e : Event) : eventBit e < 32 :=
  (List.getElem?_eq_some_iff.mp (eventOrder_eventBit e)).1.trans (by decide)

/-- The set that names an event holds its bit alone. -/
theorem eventMask_getLsbD (e x : Event) : (eventMask e).getLsbD (eventBit x) = decide (x = e) := by
  have hinj : eventBit e = eventBit x ↔ x = e := ⟨fun h => eventBit_injective h.symm, fun h => congrArg eventBit h.symm⟩
  change (BitVec.ofNat 32 (1 <<< eventBit e)).getLsbD (eventBit x) = _
  rw [BitVec.getLsbD_ofNat, decide_eq_true (eventBit_lt x), Bool.true_and, Nat.one_shiftLeft, Nat.testBit_two_pow]
  exact decide_eq_decide.mpr hinj

theorem irqLine_iff (s : State) :
    s.irqLine = true ↔ ∃ i, s.events.flags.getLsbD i = true ∧ s.events.enables.getLsbD i = true := by
  rw [State.irqLine, bne_iff_ne, ne_eq, ← not_forall_not]
  refine not_congr ⟨fun h i hi => ?_, fun h => BitVec.eq_of_getLsbD_eq fun i hi => ?_⟩
  · have hbit := congrArg (BitVec.getLsbD · i) h
    simp [hi.1, hi.2] at hbit
  · have hbit := h i
    simp only [BitVec.getLsbD_and]
    simpa using hbit

/-- Settles O44. -/
theorem flagsAndLines : Obligations.FlagsAndLines := by
  refine ⟨⟨by decide, fun s e => ⟨rfl, rfl⟩⟩, fun s e => ⟨?own, fun x hx => ?other, rfl⟩, irqLine_iff, fun s hwf => ?dirty⟩
  case own => rw [flagSet_raise, eventMask_getLsbD, decide_eq_true rfl, Bool.or_true]
  case other => rw [flagSet_raise, eventMask_getLsbD, decide_eq_false hx, Bool.or_false]
  case dirty =>
    rw [State.dirtyLine, State.unwritten, List.any_eq_true]
    refine exists_congr fun e => and_congr_right fun he => ?_
    cases e with
    | opened d t =>
      obtain ⟨hb, hw⟩ := hwf _ he d rfl
      exact hasDirty_iff hb hw
    | _ => simp [Entry.unwritten]

end Sys2Proof.Machine
end

section
/-! SUPPORT. The commands that report a table: FETCH-CAPTURE (R132), READ-RULE and SET-RULE (R115, R117), LIST-FAULTS (R53) and READ-STATUS (R173). -/

namespace Sys2Proof.Machine

/-! ### FETCH-CAPTURE (R132) -/

theorem cmdFetchCapture_code (room : Nat) (n : QueueName) (m : Byte) (s : State) :
    cmdFetchCapture room (targetCode (some n)) m s =
      if 1 ≤ m.toNat ∧ m.toNat ≤ 32 then
        accept (s.withCapture (s.capture.setQueue n { s.capture.queue n with dropped := false }))
          (fetchPayload (targetCode (some n)) (s.capture.queue n)
            (fittingRecords (room - 24) m.toNat (s.capture.queue n).records))
      else refuse s .refusedRange [] := by
  have hrange : (m = 0 ∨ 32 < m.toNat) ↔ ¬ (1 ≤ m.toNat ∧ m.toNat ≤ 32) := by bv_omega
  simp only [cmdFetchCapture, queueArg_code, hrange, ite_not, Nat.sub_sub, headerBytes, fetchFixed]

theorem cmdFetchCapture_noCode {q : Byte} (h : q = 0 ∨ 2 < q.toNat) (room : Nat) (m : Byte) (s : State) :
    cmdFetchCapture room q m s = refuse s .refusedRange [] := by
  rw [cmdFetchCapture, queueArg_eq_none h]

/-- The records carried are those from the head that fit: a longest part that the limit and the space allow. -/
theorem fittingRecords_spec : ∀ (space limit : Nat) (rs : List CaptureRecord),
    fittingRecords space limit rs <+: rs ∧ (fittingRecords space limit rs).length ≤ limit ∧
    ((fittingRecords space limit rs).flatMap captureBytes).length ≤ space ∧
    ∀ r, rs[(fittingRecords space limit rs).length]? = some r → (fittingRecords space limit rs).length < limit →
      space < ((fittingRecords space limit rs).flatMap captureBytes).length + (captureBytes r).length
  | space, 0, rs => by
    rw [fittingRecords]
    exact ⟨List.nil_prefix, le_rfl, Nat.zero_le _, fun r _ h => absurd h (Nat.lt_irrefl 0)⟩
  | space, limit + 1, [] => ⟨List.nil_prefix, Nat.zero_le _, Nat.zero_le _, nofun⟩
  | space, limit + 1, r :: rest => by
    rw [fittingRecords]
    split
    case isTrue hfits =>
      obtain ⟨hprefix, hlength, hspace, hnext⟩ := fittingRecords_spec (space - (captureBytes r).length) limit rest
      simp only [List.length_cons, List.flatMap_cons, List.length_append, List.getElem?_cons_succ]
      refine ⟨List.cons_prefix_cons.mpr ⟨rfl, hprefix⟩, by omega, by omega, fun x hx hlt => ?_⟩
      have := hnext x hx (by omega)
      omega
    case isFalse hfits =>
      refine ⟨List.nil_prefix, Nat.zero_le _, Nat.zero_le _, fun x hx _ => ?_⟩
      cases hx
      exact (Nat.zero_add _).symm ▸ Nat.lt_of_not_le hfits

/-- Settles O23. -/
theorem fetchCaptureCopiesFromTheHead : Obligations.FetchCaptureCopiesFromTheHead := by
  refine ⟨fun queue q rs => ?payload, fun r => rfl, fun s line m h => ⟨fun n => ?code, fun q hq => ?noCode⟩,
    fittingRecords_spec⟩
  case payload =>
    have hdropped : yesNo q.dropped = if q.dropped = true then 0x01 else 0x00 := by cases q.dropped <;> rfl
    unfold fetchPayload
    rw [hdropped]
    cases rs <;> rfl
  case code =>
    have hx := (execCode_fetchCapture (room := roomAt (lineOf line))
      (s := s.clearOut.executing line 0x31 [targetCode (some n), m]) (targetCode (some n)) m).trans (cmdFetchCapture_code ..)
    intro q
    refine congrArg Host.Outcome.next ?_
    split_ifs at hx ⊢
    case pos => exact captureRecord_event h _ _ hx
    case neg => exact refusedRecord_event h hx
  case noCode =>
    exact congrArg Host.Outcome.next
      (refusedRecord_event h ((execCode_fetchCapture ..).trans (cmdFetchCapture_noCode hq ..)))

/-! ### LIST-FAULTS (R53) -/

theorem insertFault_perm (x : Nat × FaultRecord) : ∀ l, (insertFault x l).Perm (x :: l)
  | [] => .refl _
  | y :: l => by
    rw [insertFault]
    split
    · exact .refl _
    · exact ((insertFault_perm x l).cons y).trans (.swap x y l)

/-- A list in ascending sector order. -/
def Ascending (l : List (Nat × FaultRecord)) : Prop := l.Pairwise fun x y => x.1 ≤ y.1

theorem Ascending.insertFault (x : Nat × FaultRecord) : ∀ {l}, Ascending l → Ascending (Machine.insertFault x l)
  | [], _ => List.pairwise_singleton ..
  | y :: l, h => by
    obtain ⟨hy, hl⟩ := List.pairwise_cons.mp h
    rw [Machine.insertFault]
    split
    case isTrue hle =>
      refine List.pairwise_cons.mpr ⟨fun z hz => ?_, h⟩
      obtain rfl | hz := List.mem_cons.mp hz
      · exact hle
      · exact hle.trans (hy z hz)
    case isFalse hlt =>
      refine List.pairwise_cons.mpr ⟨fun z hz => ?_, insertFault x hl⟩
      obtain rfl | hz := List.mem_cons.mp ((insertFault_perm x l).mem_iff.mp hz)
      · omega
      · exact hy z hz

theorem foldr_insertFault_perm : ∀ l : List (Nat × FaultRecord), (l.foldr insertFault []).Perm l
  | [] => .refl _
  | x :: l => (insertFault_perm x _).trans ((foldr_insertFault_perm l).cons x)

theorem foldr_insertFault_ascending : ∀ l : List (Nat × FaultRecord), Ascending (l.foldr insertFault [])
  | [] => .nil
  | _ :: l => (foldr_insertFault_ascending l).insertFault _

theorem faultOf_eq_some {e : Entry} {n : Nat} {r : FaultRecord} :
    faultOf e = some (n, r) ↔ ∃ d, e = .faulted d r ∧ d.number = n := by
  cases e <;> simp [faultOf]
  exact ⟨fun ⟨h, h'⟩ => ⟨h', h⟩, fun ⟨h', h⟩ => ⟨h, h'⟩⟩

/-- Settles O27. -/
theorem listFaultsReports : Obligations.ListFaultsReports := by
  refine ⟨fun free n r => ?descriptor, fun e n r => faultOf_eq_some, fun s line h => ?command,
    fun es => ⟨foldr_insertFault_ascending _, foldr_insertFault_perm _⟩⟩
  case descriptor =>
    intro descriptor
    constructor
    case left =>
      intro p hp hlt
      have hnumber : p % 16 + 16 * r.kind.code.toNat + 128 = 128 + 16 * r.kind.code.toNat + p := by omega
      simp only [faultBytes, hp, hnumber]
      rfl
    case right =>
      intro hnone
      refine ⟨byteOf (free.toNat % 16 + 16 * r.kind.code.toNat), by simp only [faultBytes, hnone]; rfl, ?_⟩
      have hkind : r.kind.code.toNat ≤ 4 := by cases r.kind <;> decide
      rw [byteOf, BitVec.toNat_ofNat, Nat.mod_eq_of_lt (by omega)]
      omega
  case command =>
    intro all carried
    refine congrArg Host.Outcome.next ?_
    have hroom : roomAt (lineOf line) - 8 - 1 = roomAt (lineOf line) - 9 := Nat.sub_sub ..
    have hx : cmdListFaults (roomAt (lineOf line)) (s.clearOut.executing line 0x41 []) =
        ((s.clearOut.executing line 0x41 []).draw, some
          { status := .accepted,
            payload := byteOf carried.length ::
              (carried.mapIdx fun i x => faultBytes (Config.freeByte s.draws (3 + 7 * i)) x).flatten,
            cut := decide (carried.length < all.length), zeroed := false }) := by
      rw [cmdListFaults, headerBytes, hroom]
      rfl
    exact quietRecord_event (s1 := (s.clearOut.executing line 0x41 []).draw) h ((execCode_listFaults ..).trans hx) rfl
      ⟨rfl, rfl, rfl, rfl, rfl, rfl, rfl, rfl⟩

/-! ### SET-RULE and READ-RULE (R108, R115, R117) -/

theorem bitsByte_triple (x y z : Bool) : bitsByte [x, y, z] =
    (if x = true then 0x01 else 0x00) + (if y = true then 0x02 else 0x00) + (if z = true then 0x04 else 0x00) := by
  cases x <;> cases y <;> cases z <;> rfl

theorem bitsByte_triple_lt (x y z : Bool) : (bitsByte [x, y, z]).toNat ≤ 7 := by
  cases x <;> cases y <;> cases z <;> decide

theorem bitsByte_triple_bits (x y z : Bool) : (bitsByte [x, y, z]).getLsbD 0 = x ∧ (bitsByte [x, y, z]).getLsbD 1 = y ∧
    (bitsByte [x, y, z]).getLsbD 2 = z := by
  cases x <;> cases y <;> cases z <;> decide

/-- The stored form of a rule: its two addresses name lines (R108). -/
def Rule.stored (r : Rule) : Rule := { r with addr1 := lineOf r.addr1, addr2 := lineOf r.addr2 }

theorem storedRule_ruleRecordOf {i : Nat} {r : Rule} (hi : i < 24) (hslot : r.slot < 8) :
    storedRule (ruleRecordOf i r) = some r.stored := by
  have hindex : (byteOf i).toNat = i := by rw [byteOf, BitVec.toNat_ofNat]; omega
  have hslots : (byteOf r.slot).toNat = r.slot := by rw [byteOf, BitVec.toNat_ofNat]; omega
  obtain ⟨h0, h1, h2⟩ := bitsByte_triple_bits r.enabled r.captureData r.urgent
  have hin : ¬ (23 < i ∨ 7 < (bitsByte [r.enabled, r.captureData, r.urgent]).toNat ∨ 7 < r.slot) := by
    have := bitsByte_triple_lt r.enabled r.captureData r.urgent
    omega
  simp only [storedRule, ruleRecordOf, kindArg_code, appliesArg_code, actionArg_code, targetArg_code, hindex, hslots, h0, h1, h2,
    if_neg hin]
  rfl

theorem kindArg_eq_none {b : Byte} (h : 2 < b.toNat) : kindArg b = none := by
  obtain ⟨h0, h1, h2⟩ := byte_ne_of_two_lt h
  rw [kindArg, if_neg h0, if_neg h1, if_neg h2]

theorem appliesArg_eq_none {b : Byte} (h : 2 < b.toNat) : appliesArg b = none := by
  obtain ⟨h0, h1, h2⟩ := byte_ne_of_two_lt h
  rw [appliesArg, if_neg h0, if_neg h1, if_neg h2]

theorem actionArg_eq_none {b : Byte} (h : 2 < b.toNat) : actionArg b = none := by
  obtain ⟨h0, h1, h2⟩ := byte_ne_of_two_lt h
  rw [actionArg, if_neg h0, if_neg h1, if_neg h2]

/-- A rule record with a field outside its values names no rule (Table 5-2). -/
theorem storedRule_none {a : RuleArgs} (h : 23 < a.index.toNat ∨ 7 < a.flags.toNat ∨ 2 < a.kind.toNat ∨ 2 < a.applies.toNat ∨
    2 < a.action.toNat ∨ 7 < a.slot.toNat ∨ 2 < a.capture.toNat) : storedRule a = none := by
  unfold storedRule
  split
  case h_1 hkind happlies haction hcapture =>
    have hk : ¬ 2 < a.kind.toNat := fun hk => by simp [kindArg_eq_none hk] at hkind
    have hp : ¬ 2 < a.applies.toNat := fun hp => by simp [appliesArg_eq_none hp] at happlies
    have ha : ¬ 2 < a.action.toNat := fun ha => by simp [actionArg_eq_none ha] at haction
    have hc : ¬ 2 < a.capture.toNat := fun hc => by simp [targetArg_eq, hc] at hcapture
    exact if_pos (by omega)
  case h_2 => rfl

theorem ruleInvalid_iff (s : State) (r : Rule) : s.ruleInvalid r = true ↔
    (r.action = .latch ∧ r.applies ≠ .writes) ∨ (r.captureData = true ∧ r.applies = .reads) ∨
      (r.kind = .range ∧ r.addr2.toNat < r.addr1.toNat) ∨
      (r.kind ≠ .mask ∧ ((∃ f, s.windowSize = some f ∧ f ≤ r.addr1.toNat) ∨ ∃ f, s.windowSize = some f ∧ f ≤ r.addr2.toNat)) := by
  simp only [State.ruleInvalid, Bool.or_eq_true, Bool.and_eq_true, decide_eq_true_eq, beyondWindow_iff, or_assoc]

section
variable {s : State} {a : RuleArgs}

theorem cmdSetRule_locked (h : s.rule.forbidsChange = true) : cmdSetRule a s = refuse s .refusedLocked [a.index] := by
  rw [cmdSetRule, if_pos h]

theorem cmdSetRule_noRule (hl : s.rule.forbidsChange = false) (h : storedRule a = none) :
    cmdSetRule a s = refuse s .refusedRange [a.index] := by
  rw [cmdSetRule, hl, if_neg Bool.false_ne_true, h]

theorem cmdSetRule_invalid {r : Rule} (hl : s.rule.forbidsChange = false) (h : storedRule a = some r)
    (hr : s.ruleInvalid r = true) : cmdSetRule a s = refuse s .refusedRange [a.index] := by
  rw [cmdSetRule, hl, if_neg Bool.false_ne_true, h]
  exact if_pos hr

theorem cmdSetRule_valid {r : Rule} (hl : s.rule.forbidsChange = false) (h : storedRule a = some r)
    (hr : ¬ s.ruleInvalid r = true) : cmdSetRule a s =
      accept (s.withRule { s.rule with rules := s.rule.rules.set a.index.toNat r }) (ruleBytes a.index.toNat r) := by
  rw [cmdSetRule, hl, if_neg Bool.false_ne_true, h]
  exact if_neg hr

end

/-- Settles O18: the lock, then the fields, then the validity cases. -/
theorem ruleCommandsStoreAndReport : Obligations.RuleCommandsStoreAndReport := by
  refine ⟨fun i r => ?bytes, fun s line g h => ?setRule, fun s line i g h => ?readRule⟩
  case bytes => rw [ruleBytes, bitsByte_triple]; rfl
  case setRule =>
    intro u locked
    have hlock : u.rule.forbidsChange = locked := by
      rw [Bool.eq_iff_iff, decide_eq_true_eq]
      exact u.rule.forbidsChange_iff
    have hrefused (a : RuleArgs) (x : Status) (hx : cmdSetRule a (u.executing line 0x20 (ruleArgBytes a)) =
        refuse (u.executing line 0x20 (ruleArgBytes a)) x [a.index]) :
        exec (.setRule line a g) s = .next (u.repliedRefused line 0x20 x [a.index]) :=
      congrArg Host.Outcome.next (guardedRefused_event h rfl ((execCode_setRule ..).trans hx))
    have hforbidden (a : RuleArgs) (hl : locked = true) :
        exec (.setRule line a g) s = .next (u.repliedRefused line 0x20 .refusedLocked [a.index]) :=
      hrefused a _ (cmdSetRule_locked (hlock.trans hl))
    refine ⟨fun i r hi hslot => ?rule, fun a ha => ?fields⟩
    case rule =>
      intro r' beyond
      have hstored : storedRule (ruleRecordOf i r) = some r' := storedRule_ruleRecordOf hi hslot
      have hinvalid := ruleInvalid_iff u r'
      refine ⟨fun hl => hforbidden _ hl, fun hl hbad => ?invalid, fun hl hgood => ?valid⟩
      case invalid => exact hrefused _ _ (cmdSetRule_invalid (hlock.trans hl) hstored (hinvalid.mpr hbad))
      case valid =>
        have hindex : (byteOf i).toNat = i := by rw [byteOf, BitVec.toNat_ofNat]; omega
        have hx := cmdSetRule_valid (s := u.executing line 0x20 (ruleArgBytes (ruleRecordOf i r)))
          (hlock.trans hl) hstored (mt hinvalid.mp hgood)
        rw [show (ruleRecordOf i r).index.toNat = i from hindex] at hx
        exact congrArg Host.Outcome.next (guardedQuiet_event h rfl ((execCode_setRule ..).trans hx) rfl
          ⟨rfl, rfl, rfl, rfl, rfl, rfl, rfl, rfl⟩)
    case fields =>
      cases hl : locked
      case true => exact hforbidden a hl
      case false => exact hrefused a _ (cmdSetRule_noRule (hlock.trans hl) (storedRule_none ha))
  case readRule =>
    intro u
    have hx := execCode_readRule (room := roomAt (lineOf line)) (s := u.executing line 0x21 [i]) i
    refine congrArg Host.Outcome.next ?_
    split_ifs with hi
    case pos =>
      exact guardedQuiet_event h rfl (hx.trans (if_neg (Nat.not_lt.mpr hi))) rfl ⟨rfl, rfl, rfl, rfl, rfl, rfl, rfl, rfl⟩
    case neg => exact guardedRefused_event h rfl (hx.trans (if_pos (Nat.not_le.mp hi)))

end Sys2Proof.Machine
end

section
/-! SUPPORT. READ-STATUS (R173, Table 11-11) and the codes it reports (Table 11-1). -/

namespace Sys2Proof.Machine

/-! ### Numbers by bytes (R186) -/

theorem byteOf_toNat {w : Nat} (x : BitVec w) : byteOf x.toNat = x.extractLsb' 0 8 := by
  rw [byteOf, BitVec.extractLsb', Nat.shiftRight_zero]

theorem byteOf_toNat_div {w : Nat} (x : BitVec w) (k : Nat) : byteOf (x.toNat / 2 ^ k) = x.extractLsb' k 8 := by
  rw [byteOf, BitVec.extractLsb', Nat.shiftRight_eq_div_pow]

theorem le2_toNat (x : Half) : le2 x.toNat = [x.extractLsb' 0 8, x.extractLsb' 8 8] := by
  rw [← byteOf_toNat, ← byteOf_toNat_div]
  rfl

theorem le3_toNat (x : Addr) : le3 x.toNat = [x.extractLsb' 0 8, x.extractLsb' 8 8, x.extractLsb' 16 8] := by
  rw [← byteOf_toNat, ← byteOf_toNat_div, ← byteOf_toNat_div]
  rfl

theorem le4_toNat (x : BitVec 32) :
    le4 x.toNat = [x.extractLsb' 0 8, x.extractLsb' 8 8, x.extractLsb' 16 8, x.extractLsb' 24 8] := by
  rw [← byteOf_toNat, ← byteOf_toNat_div, ← byteOf_toNat_div, ← byteOf_toNat_div]
  rfl

/-! ### The status payload (Table 11-11) -/

theorem drainBytes_shape (s : State) : ∃ a b c d e f : Byte, drainBytes s = [a, b, c, d, e, f] := by
  unfold drainBytes
  split <;> exact ⟨_, _, _, _, _, _, rfl⟩

theorem refusalBytes_shape (s : State) : ∃ a b c d e f g h i j : Byte, refusalBytes s = [a, b, c, d, e, f, g, h, i, j] := by
  unfold refusalBytes
  split <;> exact ⟨_, _, _, _, _, _, _, _, _, _, rfl⟩

theorem length_statusPayload (s : State) : (statusPayload s).length = 68 := by
  obtain ⟨_, _, _, _, _, _, hdrain⟩ := drainBytes_shape s
  obtain ⟨_, _, _, _, _, _, _, _, _, _, hrefusal⟩ := refusalBytes_shape s
  simp only [statusPayload, queueStatus, hdrain, hrefusal, le2, le4, List.length_append, List.length_cons, List.length_nil]

/-- Where the last drain result and the last refusal record stand in the payload. -/
theorem statusPayload_parts (s : State) :
    [byteAt (statusPayload s) 2, byteAt (statusPayload s) 3] = (drainBytes s).take 2 ∧
    ((statusPayload s).drop 4).take 4 = (drainBytes s).drop 2 ∧ byteAt (statusPayload s) 38 = byteAt (refusalBytes s) 0 ∧
    ((statusPayload s).drop 38).take 10 = refusalBytes s := by
  obtain ⟨_, _, _, _, _, _, hdrain⟩ := drainBytes_shape s
  obtain ⟨_, _, _, _, _, _, _, _, _, _, hrefusal⟩ := refusalBytes_shape s
  simp only [statusPayload, queueStatus, hdrain, hrefusal, le2, le4, List.cons_append, List.nil_append]
  exact ⟨rfl, rfl, rfl, rfl⟩

theorem cmdReadStatus_eq (room : Nat) (clear : Byte) (s : State) : cmdReadStatus room clear s =
    if clear = 0x00 ∨ clear = 0x01 then
      let zero := decide (clear = 0x01 ∧ 76 ≤ room)
      ((if zero then s.withStaging { s.staging with retry := 0 } else s).draw,
        some { status := .accepted, payload := statusPayload s, cut := false, zeroed := zero })
    else refuse s .refusedRange [] := by
  have hbit : (clear = 0x00 ∨ clear = 0x01) ↔ clear.toNat ≤ 1 := by bv_omega
  simp only [cmdReadStatus, boolArg_eq, hbit]
  by_cases hc : clear.toNat ≤ 1
  case pos => simp only [hc, if_true, length_statusPayload, headerBytes, acceptedReply, Bool.decide_and, Nat.reduceAdd]
  case neg => simp only [hc, if_false]

/-- Settles O15: the codes and byte orders, the command, and the payload's layout field by field. -/
theorem readStatusReports : Obligations.ReadStatusReports := by
  refine ⟨?codes, fun s line clear g h => ?command, fun s hslots => ?layout⟩
  case codes =>
    exact ⟨rfl, fun _ _ _ _ _ _ => rfl, rfl, rfl, rfl, rfl, rfl, rfl, rfl, rfl, fun _ => rfl, rfl, fun _ => rfl, rfl, rfl, rfl,
      rfl, rfl, le2_toNat, le3_toNat, le4_toNat⟩
  case command =>
    intro u
    have hx := (execCode_readStatus (room := roomAt (lineOf line)) (s := u.executing line 0x02 [clear]) clear).trans
      (cmdReadStatus_eq ..)
    refine congrArg Host.Outcome.next ?_
    split_ifs at hx ⊢ with hc
    case pos =>
      have hzero (zero : Bool) (hx : execCode (roomAt (lineOf line)) 0x02 (padTo 53 [clear]) (u.executing line 0x02 [clear]) = _) :=
        guardedQuiet_event (u := u) (r := { status := .accepted, payload := statusPayload u, cut := false, zeroed := zero })
          (s1 := (if zero then (u.executing line 0x02 [clear]).withStaging { s.staging with retry := 0 }
            else u.executing line 0x02 [clear]).draw) h rfl hx
      cases hz : decide (clear = 0x01 ∧ 76 ≤ roomAt (lineOf line)) <;> rw [hz] at hx
      case true => exact hzero true hx rfl ⟨rfl, rfl, rfl, rfl, rfl, rfl, rfl, rfl⟩
      case false => exact hzero false hx rfl ⟨rfl, rfl, rfl, rfl, rfl, rfl, rfl, rfl⟩
    case neg => exact guardedRefused_event h rfl hx
  case layout =>
    obtain ⟨hdrain, htick, hreason, hrefusal⟩ := statusPayload_parts s
    obtain ⟨_, _, _, _, _, _, hd⟩ := drainBytes_shape s
    obtain ⟨_, _, _, _, _, _, _, _, _, _, hr⟩ := refusalBytes_shape s
    intro p
    have hp : p = statusPayload s := rfl
    simp only [statusPayload, queueStatus, hd, hr, le2, le4, List.cons_append, List.nil_append] at hp
    refine ⟨length_statusPayload s, ?_, ?_, fun r hr => ?drained, fun hnone => ?undrained, ?_, ?_, ?_, ?_, ?_, ?_, ?_, ?_, ?urgent,
      fun hnone => ?unrefused, fun r hr => ?refused, ?_, ?_, ?_, ?_, ?_⟩
    case drained =>
      have hbytes : drainBytes s = [r.outcome.codes.1, r.outcome.codes.2] ++ le4 r.tick.toNat := by rw [drainBytes, hr]
      exact ⟨hdrain.trans (by rw [hbytes]; rfl), htick.trans (by rw [hbytes]; rfl)⟩
    case undrained =>
      have hbytes : drainBytes s = [0x00, 0x00] ++ freeBytes s.draws 4 4 := by rw [drainBytes, hnone]
      rw [hbytes] at hdrain
      obtain ⟨h2, h3, -⟩ : byteAt p 2 = 0 ∧ byteAt p 3 = 0 ∧ True := by simpa using hdrain
      exact ⟨h2, h3⟩
    case unrefused =>
      refine hreason.trans ?_
      rw [refusalBytes, hnone]
      rfl
    case refused =>
      refine hrefusal.trans ?_
      simp only [refusalBytes, hr]
      cases r.rule <;> rfl
    case urgent =>
      rw [hp]
      cases s.rule.lastUrgent <;> rfl
    all_goals
      rw [hp]
      rfl

end Sys2Proof.Machine
end

section
/-! SUPPORT. The power transitions (chapter 7): the drain completion, EMERGENCY and SAFE, PWRWARN. -/

namespace Sys2Proof.Machine

/-! ### The drain and SAFE conditions (R143, R149) -/

theorem ordinaryWrite_eq_false_iff (s : State) :
    s.ordinaryWrite = false ↔ ∀ w, s.port.write = some w → w.stage ≠ .taking ∧ ∀ c, w.stage ≠ .held c := by
  unfold State.ordinaryWrite
  cases s.port.write with
  | none => simp
  | some w =>
    obtain ⟨req, accepted, hold, stage, decision⟩ := w
    cases stage <;> simp

theorem drainCondition_iff (s : State) : s.drainCondition = true ↔ s.unwritten = false ∧ s.seq.st = .idle ∧ s.seq.misses = [] ∧
    ∀ w, s.port.write = some w → w.stage ≠ .taking ∧ ∀ c, w.stage ≠ .held c := by
  simp only [State.drainCondition, Bool.and_eq_true, Bool.not_eq_true', decide_eq_true_eq, List.isEmpty_iff,
    ordinaryWrite_eq_false_iff, and_assoc]

theorem drainDue_iff (s : State) : s.drainDue = true ↔ s.power.st = .drain ∧ s.seq.powerReq ≠ some .sleep ∧
    s.drainCondition = true ∧ s.control.softReset = false := by
  simp only [State.drainDue, Bool.and_eq_true, decide_eq_true_eq, Bool.not_eq_true', and_assoc]

theorem Entry.holdsSafe_eq_false_iff (e : Entry) : e.holdsSafe = false ↔ match e with
    | .filling _ _ => False
    | .closed _ _ => False
    | .committing _ _ _ => False
    | .opened d _ => hasDirty d = false
    | _ => True := by
  cases e <;> simp [holdsSafe]

theorem SeqState.inFlight_eq_false_iff (x : SeqState) : x.inFlight = false ↔
    (∀ op, x ≠ .busy op) ∧ (∀ op t, x ≠ .suspending op t) ∧ (∀ op l, x ≠ .suspended op l) ∧ ∀ op, x ≠ .resuming op := by
  cases x <;> simp [inFlight]

theorem safeDue_iff (s : State) : s.safeDue = true ↔ s.power.st = .emergency ∧ (∀ e ∈ s.staging.entries, e.holdsSafe = false) ∧
    s.seq.st.inFlight = false := by
  simp only [State.safeDue, State.safeCondition, Bool.and_eq_true, decide_eq_true_eq, Bool.not_eq_true', List.any_eq_false,
    Bool.not_eq_true]

theorem enterSafe_awake {s : State} (h : s.seq.st ≠ .asleep) : s.enterSafe = (s.setPowerSt .safe).raise .safeReached := if_neg h

theorem enterSafe_asleep {s : State} (h : s.seq.st = .asleep) :
    s.enterSafe = ((s.setPowerSt .safe).raise .safeReached).refuseMisses .deniedPower := if_pos h

/-- Settles O60: each command takes its transition exactly where its condition holds. -/
theorem drainAndSafeConditions : Obligations.DrainAndSafeConditions := by
  intro s u idle settled
  have hidle : u.drainCondition = true ↔ idle := drainCondition_iff u
  have hsettled : u.safeDue = true ↔ s.power.st = .emergency ∧ settled := by
    rw [safeDue_iff, SeqState.inFlight_eq_false_iff]
    simp only [Entry.holdsSafe_eq_false_iff]
    exact Iff.rfl
  have hdrain {x : State} (hx : (if u.drainDue then u.completeDrain else u) = x) : Reaches .drainCompletion s x :=
    reaches_of_event rfl hx
  have hsafe {x : State} (hx : (if u.safeDue then u.enterSafe else u) = x) : Reaches .safeConditionMet s x :=
    reaches_of_event rfl hx
  refine ⟨fun hst hreq hreset hi => ?drains, fun hnot => ?waits, fun hst hset => ?safe, fun hnot => ?held⟩
  case drains =>
    have hdue : u.drainDue = true := (drainDue_iff u).mpr ⟨hst, hreq, hidle.mpr hi, hreset⟩
    exact ⟨fun hdeep => hdrain ((if_pos hdue).trans (if_pos hdeep)),
      fun hdeep => hdrain ((if_pos hdue).trans (if_neg (Bool.eq_false_iff.mp hdeep)))⟩
  case waits =>
    refine hdrain (if_neg fun hdue => ?_)
    obtain ⟨hst, -, hcond, -⟩ := (drainDue_iff u).mp hdue
    exact hnot.elim (fun hn => hn hst) fun hn => hn (hidle.mp hcond)
  case safe =>
    have hdue := hsettled.mpr ⟨hst, hset⟩
    exact ⟨fun hawake => hsafe ((if_pos hdue).trans (enterSafe_awake (s := u) hawake)),
      fun hasleep => hsafe ((if_pos hdue).trans (enterSafe_asleep (s := u) hasleep))⟩
  case held =>
    refine hsafe (if_neg fun hdue => ?_)
    obtain ⟨hst, hset⟩ := hsettled.mp hdue
    exact hnot.elim (fun hn => hn hst) fun hn => hn hset

/-! ### PWRWARN (R148, R151) -/

/-- What a PWRWARN assertion does, by power state (R148). -/
theorem takeAssertion_calm {s : State} (h : s.power.st = .unconfigured ∨ s.power.st = .emergency ∨ s.power.st = .safe) :
    s.takeAssertion = s.raise .powerWarning := by
  obtain h | h | h := h <;> rw [State.takeAssertion, h]

theorem takeAssertion_active {s : State} (h : s.power.st = .run ∨ s.power.st = .waking) :
    s.takeAssertion = (s.raise .powerWarning).enterEmergency := by
  obtain h | h := h <;> rw [State.takeAssertion, h]

theorem takeAssertion_starting {s : State} (h : s.power.st = .starting) : s.takeAssertion = s := by
  rw [State.takeAssertion, h]

theorem takeAssertion_drain {s : State} (h : s.power.st = .drain) :
    s.takeAssertion = ((s.raise .powerWarning).abandonDrain .power).enterEmergency := by
  rw [State.takeAssertion, h]

theorem takeAssertion_sleep {s : State} (h : s.power.st = .sleep) : s.takeAssertion = (s.raise .powerWarning).enterSafe := by
  rw [State.takeAssertion, h]

/-- To leave SLEEP or SAFE with the flash asleep (R78, R145). -/
theorem wakePart_delayed {s : State} (h : s.seq.st = .asleep) (hdelay : s.wakeDelay ≠ 0) : s.wakePart =
    (((s.setPowerSt .waking).issueBare .wake).setPowerReq none).setSeqSt (.waking (tickAfter s.now s.wakeDelay)) := by
  have h' : (s.setPowerSt .waking).seq.st = .asleep := h
  have hdelay' : ¬ (s.setPowerSt .waking).wakeDelay = 0 := hdelay
  simp only [State.wakePart, State.requestWake, if_pos h', if_neg hdelay']
  rfl

theorem wakePart_undelayed {s : State} (h : s.seq.st = .asleep) (hdelay : s.wakeDelay = 0) : s.wakePart =
    (((s.setPowerSt .run).issueBare .wake).setPowerReq none).setSeqSt .idle := by
  have h' : (s.setPowerSt .waking).seq.st = .asleep := h
  have hdelay' : (s.setPowerSt .waking).wakeDelay = 0 := hdelay
  simp only [State.wakePart, State.requestWake, if_pos h', if_pos hdelay']
  rfl

theorem wakePart_flashAwake {s : State} (h : s.seq.st ≠ .asleep) : s.wakePart = (s.setPowerSt .run).setPowerReq none := by
  have h' : ¬ (s.setPowerSt .waking).seq.st = .asleep := h
  simp only [State.wakePart, State.requestWake, if_neg h']
  rfl

section
variable {s : State} (hon : s.power.pwrwarn = true)
include hon

theorem pwrwarnLow_emergency (h : s.power.st = .emergency) : s.pwrwarnLow = (s.setPwrwarn false).setPowerSt .run := by
  have h' : (s.setPwrwarn false).power.st = .emergency := h
  simp only [State.pwrwarnLow, hon, if_true, h']

theorem pwrwarnLow_safe (h : s.power.st = .safe) : s.pwrwarnLow =
    if (s.setPwrwarn false).seq.st = .asleep then (s.setPwrwarn false).wakePart else (s.setPwrwarn false).setPowerSt .run := by
  have h' : (s.setPwrwarn false).power.st = .safe := h
  simp only [State.pwrwarnLow, hon, if_true, h']

theorem pwrwarnLow_other (he : s.power.st ≠ .emergency) (hs : s.power.st ≠ .safe) : s.pwrwarnLow = s.setPwrwarn false := by
  simp only [State.pwrwarnLow, if_pos hon]
  split
  case h_1 h => exact absurd h he
  case h_2 h => exact absurd h hs
  case h_3 => rfl

end

/-- Settles O59, by the level before and the power state. -/
theorem powerWarningMovesThePowerState : Obligations.PowerWarningMovesThePowerState := by
  intro s u high low warned emergency
  have hhigh {x : State} (hx : u.pwrwarnHigh = x) : Reaches .pwrwarnAssertion s x := reaches_of_event rfl hx
  have hlow {x : State} (hx : u.pwrwarnLow = x) : Reaches .pwrwarnDeassertion s x := reaches_of_event rfl hx
  have hemergency (x : State) (hp : x.port = s.port) (hg : x.staging = s.staging) : x.enterEmergency = emergency x := by
    have hp' : ((x.setPowerSt .emergency).withStaging (s.staging.closeAll .emergency)).port.write = s.port.write :=
      congrArg Port.write hp
    simp only [State.enterEmergency, emergency, hg]
    cases hw : s.port.write with
    | none => rw [State.refuseHeld, hp', hw]; rfl
    | some w =>
      rw [State.refuseHeld, hp', hw]
      cases w.stage <;> rfl
  refine ⟨fun hon => hhigh (if_pos hon), fun hoff => ?rises, fun hoff => ?stays, fun hon => ?falls⟩
  case rises =>
    have hrise : u.pwrwarnHigh = high.takeAssertion := if_neg (Bool.eq_false_iff.mp hoff)
    refine ⟨fun h => hhigh (hrise.trans (takeAssertion_starting (s := high) h)), fun h => hhigh (hrise.trans (takeAssertion_calm (s := high) h)),
      fun h => hhigh (hrise.trans ((takeAssertion_active (s := high) h).trans (hemergency _ rfl rfl))),
      fun h => hhigh (hrise.trans ((takeAssertion_drain (s := high) h).trans (hemergency _ ?_ ?_))),
      fun h hawake => hhigh (hrise.trans ((takeAssertion_sleep (s := high) h).trans (enterSafe_awake hawake))),
      fun h hasleep => hhigh (hrise.trans ((takeAssertion_sleep (s := high) h).trans (enterSafe_asleep hasleep)))⟩
    · simp [high, u]
    · simp [high, u]
  case stays => exact hlow (if_neg (Bool.eq_false_iff.mp hoff))
  case falls =>
    refine ⟨fun h => hlow (pwrwarnLow_emergency (s := u) hon h),
      fun h hawake => hlow ((pwrwarnLow_safe (s := u) hon h).trans (if_neg hawake)),
      fun h hasleep hdelay => hlow ?delayed, fun h hasleep hdelay => hlow ?undelayed,
      fun he hs => hlow (pwrwarnLow_other (s := u) hon he hs)⟩
    case delayed => exact (pwrwarnLow_safe (s := u) hon h).trans ((if_pos hasleep).trans (wakePart_delayed (s := low) hasleep hdelay))
    case undelayed =>
      exact (pwrwarnLow_safe (s := u) hon h).trans ((if_pos hasleep).trans (wakePart_undelayed (s := low) hasleep hdelay))

end Sys2Proof.Machine
end

section
/-! SUPPORT. Timers (R156): the timers of an entry (R32, R34, R35), and the hold, stale, drain and reply timers (R99, R131, R144, R171). -/

namespace Sys2Proof.Machine

theorem timerDue_self (now : Tick) : timerDue now (some now) = true := by simp [timerDue]

/-! ### The idle and age timers (R32, R34, R35) -/

section
variable {g : Staging} {i : Nat} {d : Sector} {t : Timers} (h : g.entry i = .opened d t) (c : CloseCause)
include h

theorem Staging.close_opened_dirty (hd : hasDirty d = true) :
    g.close c i = { g with entries := g.entries.set i (.closed d c), closeQueue := g.closeQueue ++ [i] } := by
  simp [Staging.close, h, closedEntry, closeEffect, hd]

theorem Staging.close_opened_clean (hd : hasDirty d = false) : g.close c i = g.setEntry i (.clean d) := by
  simp [Staging.close, h, closedEntry, closeEffect, hd, Staging.setEntry]

end

section
variable {s : State} {i : Nat}

theorem idleExpired_due (h : (s.staging.entry i).idleExpiry = some s.now) :
    s.idleExpired i = s.withStaging (s.staging.expireIdle i) := by
  rw [State.idleExpired, h, timerDue_self, if_pos rfl]

theorem idleExpired_notDue (h : (s.staging.entry i).idleExpiry ≠ some s.now) : s.idleExpired i = s := by
  rw [State.idleExpired, timerDue_ne h, if_neg Bool.false_ne_true]

theorem ageExpired_due (h : (s.staging.entry i).ageExpiry = some s.now) :
    s.ageExpired i = s.withStaging (s.staging.expireAge i) := by
  rw [State.ageExpired, h, timerDue_self, if_pos rfl]

theorem ageExpired_notDue (h : (s.staging.entry i).ageExpiry ≠ some s.now) : s.ageExpired i = s := by
  rw [State.ageExpired, timerDue_ne h, if_neg Bool.false_ne_true]

end

/-- An entry neither OPEN nor FILLING runs no timer. -/
theorem Entry.expiries_none {e : Entry} (ho : ∀ d t, e ≠ .opened d t) (hf : ∀ d f, e ≠ .filling d f) :
    e.idleExpiry = none ∧ e.ageExpiry = none := by
  cases e with
  | opened d t => exact absurd rfl (ho d t)
  | filling d f => exact absurd rfl (hf d f)
  | _ => exact ⟨rfl, rfl⟩

/-- Settles O57, by the state of the entry. -/
theorem entryTimersCloseTheEntry : Obligations.EntryTimersCloseTheEntry := by
  intro s i hi set closed
  have hidle {x : State} (hx : s.clearOut.idleExpired i = x) : Reaches (.idleTimerExpiry i) s x := reaches_of_event rfl hx
  have hage {x : State} (hx : s.clearOut.ageExpired i = x) : Reaches (.ageTimerExpiry i) s x := reaches_of_event rfl hx
  refine ⟨fun d t he => ?opened, fun d f he => ?filling, fun ho hf => ?other⟩
  case opened =>
    have he' : s.clearOut.staging.entry i = .opened d t := he
    have hI : s.staging.expireIdle i = s.staging.close .idle i := by rw [Staging.expireIdle, he]
    have hA : s.staging.expireAge i = s.staging.close .age i := by rw [Staging.expireAge, he]
    refine ⟨fun hdue hd => hidle ((idleExpired_due (by rw [he']; exact hdue)).trans ?_),
      fun hdue hd => hidle ((idleExpired_due (by rw [he']; exact hdue)).trans ?_),
      fun hdue hd => hage ((ageExpired_due (by rw [he']; exact hdue)).trans ?_),
      fun hdue => hidle (idleExpired_notDue (by rw [he']; exact hdue)),
      fun hdue => hage (ageExpired_notDue (by rw [he']; exact hdue))⟩
    · exact congrArg s.clearOut.withStaging (hI.trans (Staging.close_opened_dirty he _ hd))
    · exact congrArg s.clearOut.withStaging (hI.trans (Staging.close_opened_clean he _ hd))
    · exact congrArg s.clearOut.withStaging (hA.trans (Staging.close_opened_dirty he _ hd))
  case filling =>
    have he' : s.clearOut.staging.entry i = .filling d f := he
    refine ⟨fun hdue => hidle ((idleExpired_due (by rw [he']; exact hdue)).trans ?_),
      fun hdue => hage ((ageExpired_due (by rw [he']; exact hdue)).trans ?_)⟩
    · rw [Staging.expireIdle, he']
      rfl
    · rw [Staging.expireAge, he']
      rfl
  case other =>
    obtain ⟨hi', ha'⟩ := Entry.expiries_none ho hf
    exact ⟨hidle (idleExpired_notDue (by rw [show s.clearOut.staging = s.staging from rfl, hi']; exact nofun)),
      hage (ageExpired_notDue (by rw [show s.clearOut.staging = s.staging from rfl, ha']; exact nofun))⟩

/-! ### The hold, stale, drain and reply timers (R99, R131, R144, R171) -/

section
variable {s : State}

theorem holdExpired_due {w : WriteInProgress} {c : HoldCause} (hw : s.port.write = some w) (hc : w.stage = .held c)
    (h : w.hold = some s.now) : s.holdExpired = (s.raise .holdExpired).refuseWrite w .holdExpired := by
  simp only [State.holdExpired, hw, hc, h, timerDue_self, if_true]

theorem holdExpired_notDue (h : ∀ w, s.port.write = some w → w.hold ≠ some s.now ∨ ∀ c, w.stage ≠ .held c) :
    s.holdExpired = s := by
  unfold State.holdExpired
  split
  case h_2 => rfl
  case h_1 w hw =>
    split
    case h_2 => rfl
    case h_1 c hc =>
      obtain hn | hn := h w hw
      · rw [timerDue_ne hn, if_neg Bool.false_ne_true]
      · exact absurd hc (hn c)

theorem staleExpired_due {n : QueueName} (h : (s.capture.queue n).staleExpiry = some s.now) :
    s.staleExpired n = s.expireStale n := by
  rw [State.staleExpired, h, timerDue_self, if_pos rfl]

theorem staleExpired_notDue {n : QueueName} (h : (s.capture.queue n).staleExpiry ≠ some s.now) : s.staleExpired n = s := by
  rw [State.staleExpired, timerDue_ne h, if_neg Bool.false_ne_true]

theorem drainExpired_due (hst : s.power.st = .drain) (h : s.power.drainExpiry = some s.now) :
    s.drainExpired = s.abandonDrain (if s.staging.entries.any Entry.isFaulted then .faultedData else .timeout) := by
  rw [State.drainExpired, h]
  exact if_pos ⟨hst, timerDue_self _⟩

theorem drainExpired_notDue (h : s.power.st ≠ .drain ∨ s.power.drainExpiry ≠ some s.now) : s.drainExpired = s := by
  refine if_neg fun ⟨hst, hdue⟩ => ?_
  obtain hn | hn := h
  · exact hn hst
  · exact Bool.false_ne_true ((timerDue_ne hn).symm.trans hdue)

theorem overlayExpired_due {o : Overlay} (ho : s.control.overlay = some o) (h : o.expiry = s.now) :
    s.overlayExpired = (s.withControl { s.control with overlay := none }).resolveAfresh Read.fromOverlay := by
  simp only [State.overlayExpired, State.endOverlay, ho, h, if_true]

theorem overlayExpired_notDue (h : ∀ o, s.control.overlay = some o → o.expiry ≠ s.now) : s.overlayExpired = s := by
  unfold State.overlayExpired
  split
  case h_1 o ho => exact if_neg (h o ho)
  case h_2 => rfl

theorem withdrawSleep_eq (s : State) :
    s.withdrawSleep = s.setPowerReq (if s.seq.powerReq = some .sleep then none else s.seq.powerReq) := by
  unfold State.withdrawSleep
  split_ifs <;> rfl

end

/-- The reads a test picks are always resolved afresh somehow, and `resolveAfresh` answers where (R92). -/
theorem ResolvesAfresh.exists_filter (s : State) (p : Read → Bool) : ∃ x, ResolvesAfresh s (s.port.reads.filter p) x :=
  ResolvesAfresh.total _ s fun _ hr => List.mem_map_of_mem (List.mem_of_mem_filter hr)

theorem ResolvesAfresh.resolveAfresh_eq {s x : State} {p : Read → Bool} (h : ResolvesAfresh s (s.port.reads.filter p) x) :
    s.resolveAfresh p = x := h.foldl_eq.1

/-- Settles O58, timer by timer. -/
theorem timersTakeEffectAtTheirTick : Obligations.TimersTakeEffectAtTheirTick := by
  intro s u
  refine ⟨fun w c hw hc hh => reaches_of_event rfl (holdExpired_due (s := u) hw hc hh),
    fun hn => reaches_of_event rfl (holdExpired_notDue (s := u) hn), fun q => ?stale,
    fun hst hdue => reaches_of_event rfl ?drain, fun hn => reaches_of_event rfl (drainExpired_notDue (s := u) hn),
    fun o ho hdue => ?reply, fun hn => reaches_of_event rfl (overlayExpired_notDue (s := u) hn)⟩
  case stale =>
    intro limit
    have hlimit : staleLimit s.time.timing q = limit := by cases q <;> rfl
    refine ⟨fun hdue => reaches_of_event rfl ((staleExpired_due (s := u) hdue).trans ?_),
      fun hdue => reaches_of_event rfl (staleExpired_notDue (s := u) hdue)⟩
    rw [State.expireStale, show u.time = s.time from rfl, hlimit]
    rfl
  case drain =>
    refine (drainExpired_due (s := u) hst hdue).trans ?_
    rw [State.abandonDrain, withdrawSleep_eq]
    rfl
  case reply =>
    intro ended
    exact ⟨ResolvesAfresh.exists_filter ended _,
      fun x hx => reaches_of_event rfl ((overlayExpired_due (s := u) ho hdue).trans hx.resolveAfresh_eq)⟩

end Sys2Proof.Machine
end

section
/-! SUPPORT. The limits of an operation (R50, R69, R70, R74, R75), the wake end and the start-up wait (R78, R183 to R185), and the tick (R155, R156). -/

namespace Sys2Proof.Machine

/-! ### Refusing the queued misses (R75, R150) -/

/-- Each read keeps its place; those whose tag the list names become RESOLVED with the refusal. -/
theorem refuseReads_eq (x : RefusalReason) : ∀ (tags : List Nat) (s : State), s.refuseReads tags x =
    s.setReads (s.port.reads.map fun r => if r.tag ∈ tags then { r with stage := .resolved (.err x) } else r)
  | [], s => by
    have hmap : (s.port.reads.map fun r => if r.tag ∈ ([] : List Nat) then { r with stage := .resolved (.err x) } else r) =
        s.port.reads := by simp
    rw [hmap]
    rfl
  | t :: tags, s => by
    have ih := refuseReads_eq x tags (s.refuseRead t x)
    rw [State.refuseReads, List.foldl_cons, ← State.refuseReads, ih]
    simp only [State.refuseRead, State.setStage, State.updateRead, State.setReads_port, List.map_map]
    refine congrArg s.setReads (List.map_congr_left fun r _ => ?_)
    by_cases hr : r.tag = t <;> simp [hr]

theorem refuseMisses_eq (s : State) (x : RefusalReason) : s.refuseMisses x =
    (s.withSeq { s.seq with misses := [] }).setReads
      (s.port.reads.map fun r => if r.tag ∈ s.seq.misses then { r with stage := .resolved (.err x) } else r) := by
  rw [State.refuseMisses, refuseReads_eq]
  rfl

/-! ### Timeouts (R50, R69, R70, R74) -/

section
variable {s : State} {op : FlashOp} {st : Byte}

theorem suspendLimit_due (h : s.seq.st = .suspending op s.now) : s.suspendLimit st =
    if s.shown st = .ready then s.issueStatus.completeOperation op (s.failed st) else s.issueStatus.timeoutOperation op := by
  simp only [State.suspendLimit, h, if_true]
  rfl

theorem suspendLimit_notDue (h : ∀ o, s.seq.st ≠ .suspending o s.now) : s.suspendLimit st = s := by
  unfold State.suspendLimit
  split
  case h_1 op expiry hst =>
    refine if_neg fun he => h op ?_
    rw [hst, he]
  case h_2 => rfl

theorem counting?_of (h : s.seq.st = .busy op ∨ s.seq.st = .resuming op) : s.seq.st.counting? = some op := by
  obtain h | h := h <;> rw [h, SeqState.counting?]

theorem timeLimit_reached (h : s.seq.st = .busy op ∨ s.seq.st = .resuming op) (hlimit : op.timeLimit ≤ op.busyTicks) :
    s.timeLimit = s.timeoutOperation op := by
  simp only [State.timeLimit, counting?_of h, if_pos hlimit]

theorem timeLimit_below (h : s.seq.st = .busy op ∨ s.seq.st = .resuming op) (hlimit : op.busyTicks < op.timeLimit) :
    s.timeLimit = s := by
  simp only [State.timeLimit, counting?_of h, if_neg (Nat.not_le.mpr hlimit)]

theorem timeoutReported_softReset {x : OpStep} (h : s.control.softReset = true) : s.timeoutReported x = s := if_pos h

theorem timeoutReported_committing {x : OpStep} {i : Nat} {d : Sector} {c : CloseCause} {p : Progress}
    (h : s.control.softReset = false) (hi : s.staging.committingIndex = some i) (he : s.staging.entry i = .committing d c p) :
    s.timeoutReported x = s.faultCommit i d .flashTimeout x.page? := by
  simp only [State.timeoutReported, h, hi, he, Bool.false_eq_true, if_false]

theorem timeoutReported_none {x : OpStep}
    (h : ∀ i d c p, s.staging.committingIndex = some i → s.staging.entry i ≠ .committing d c p) : s.timeoutReported x = s := by
  unfold State.timeoutReported
  split
  · rfl
  · split
    case h_1 => rfl
    case h_2 i hi =>
      split
      case h_1 d c p he => exact absurd he (h i d c p hi)
      case h_2 => rfl

end

/-- Settles O55. -/
theorem timeoutsStallTheSequencer : Obligations.TimeoutsStallTheSequencer := by
  intro s st op timedOut
  have htimeout (l : List Spi) : { s.clearOut with link := l }.timeoutOperation op = timedOut { s.clearOut with link := l } := by
    let y := { s.clearOut with link := l }.withSeq { s.seq with st := .stalled, deferred := none }
    have hunreported (h : y.timeoutReported op.step = y) : { s.clearOut with link := l }.timeoutOperation op =
        ((y.withSeq { y.seq with misses := [] }).raise .flashStall).setReads
          (s.port.reads.map fun r => if r.tag ∈ s.seq.misses then { r with stage := .resolved (.err .flashUnavailable) } else r) := by
      rw [State.timeoutOperation, refuseMisses_eq]
      exact congrArg (fun z : State => ((z.raise .flashStall).withSeq { z.seq with misses := [] }).setReads
        (z.port.reads.map fun r => if r.tag ∈ z.seq.misses then { r with stage := .resolved (.err .flashUnavailable) } else r)) h
    dsimp only [timedOut]
    cases hreset : s.control.softReset with
    | true => exact hunreported (timeoutReported_softReset hreset)
    | false =>
      cases hindex : s.staging.committingIndex with
      | none => exact hunreported (timeoutReported_none fun i d c p hi => by cases hindex.symm.trans hi)
      | some i =>
        rw [Option.map_some]
        cases hentry : s.staging.entry i with
        | committing d c p =>
          have hreported : y.timeoutReported op.step = y.faultCommit i d .flashTimeout op.step.page? :=
            timeoutReported_committing hreset hindex hentry
          rw [State.timeoutOperation, refuseMisses_eq]
          refine (congrArg (fun z : State => ((z.raise .flashStall).withSeq { z.seq with misses := [] }).setReads
            (z.port.reads.map fun r =>
              if r.tag ∈ z.seq.misses then { r with stage := .resolved (.err .flashUnavailable) } else r)) hreported).trans ?_
          cases op.step <;> rfl
        | _ =>
          exact hunreported (timeoutReported_none fun j d c p hj hj' => by
            cases hindex.symm.trans hj
            cases hentry.symm.trans hj')
  refine ⟨fun hst hready => ?completes, fun hst hnot => ?suspend, fun hst => ?early, fun hst hlimit => ?limit,
    fun hst hlimit => ?below⟩
  case completes =>
    have hpoll : s.clearOut.pollStatus st = s.clearOut.issueStatus.completeOperation op (s.failed st) := by
      have hst' : s.clearOut.seq.st = .suspending op s.now := hst
      have hready' : s.clearOut.shown st = .ready := hready
      simp only [State.pollStatus, hst', hready']
      rfl
    exact congrArg (fun x => Host.Outcome.next (settle x))
      (((suspendLimit_due (s := s.clearOut) hst).trans (if_pos hready)).trans hpoll.symm)
  case suspend =>
    exact reaches_of_event rfl ((suspendLimit_due (s := s.clearOut) hst).trans
      ((if_neg hnot).trans (htimeout _)))
  case early => exact reaches_of_event rfl (suspendLimit_notDue (s := s.clearOut) hst)
  case limit =>
    exact reaches_of_event rfl ((timeLimit_reached (s := s.clearOut) hst hlimit).trans (htimeout _))
  case below => exact reaches_of_event rfl (timeLimit_below (s := s.clearOut) hst hlimit)

/-! ### The wake end and the start-up wait (R78, R183 to R185) -/

section
variable {s : State}

/-- Start-up's end in RUN with the lanes open (R185). -/
def State.started (s : State) (q : SeqState) : State := ((s.setSeqSt q).setPowerSt .run).setLanes true

theorem endStartup_calm (q : SeqState) (h : s.power.pwrwarn = false) : s.endStartup q = s.started q :=
  if_neg (Bool.eq_false_iff.mp h)

theorem endStartup_warned (q : SeqState) (h : s.power.pwrwarn = true) :
    s.endStartup q = ((s.started q).raise .powerWarning).enterEmergency :=
  (if_pos h).trans (takeAssertion_active (s := s.started q) (.inl rfl))

theorem wakeReported_eq (s : State) : s.wakeReported = s.setPowerSt (if s.power.st = .waking then .run else s.power.st) := by
  unfold State.wakeReported
  split_ifs <;> rfl

theorem wakeEndDue_due (st : Byte) (h : s.seq.st = .waking s.now) : s.wakeEndDue st = s.wakeEnded st := by
  simp only [State.wakeEndDue, h, if_true]

theorem wakeEndDue_notDue (st : Byte) (h : s.seq.st ≠ .waking s.now) : s.wakeEndDue st = s := by
  unfold State.wakeEndDue
  split
  case h_1 ends hst =>
    refine if_neg fun he => h ?_
    rw [hst, he]
  case h_2 => rfl

theorem startupLimitDue_due {r : Bool} (h : s.seq.st = .startupWait s.now r) : s.startupLimitDue = s.stallStartup := by
  simp only [State.startupLimitDue, h, if_true]

theorem startupLimitDue_notDue (h : ∀ r, s.seq.st ≠ .startupWait s.now r) : s.startupLimitDue = s := by
  unfold State.startupLimitDue
  split
  case h_1 limit r hst =>
    refine if_neg fun he => h r ?_
    rw [hst, he]
  case h_2 => rfl

end

/-- Settles O35, by what the status shows. -/
theorem wakeAndStartUpWait : Obligations.WakeAndStartUpWait := by
  intro s st u v ended begun
  have hwake {x : State} (h : s.seq.st = .waking s.now) (hx : u.wakeEnded st = x) : Reaches (.wakeEnd st) s x :=
    reaches_of_event rfl ((wakeEndDue_due (s := u) st h).trans hx)
  have hfirst {x : State} (h : s.seq.st = .waking s.now) (hp : s.power.st = .starting) (hx : u.firstStatus st = x) :
      Reaches (.wakeEnd st) s x := hwake h ((if_pos hp).trans hx)
  have hstall {r : Bool} {x : State} (h : s.seq.st = .startupWait s.now r) (hx : u.stallStartup = x) :
      Reaches .startupWaitLimit s x := reaches_of_event rfl ((startupLimitDue_due (s := u) h).trans hx)
  refine ⟨fun h hp => hwake h ((if_neg hp).trans (wakeReported_eq _)), fun h hp => ?startup,
    fun h => reaches_of_event rfl (wakeEndDue_notDue (s := u) st h),
    fun r h => ⟨fun hw => hstall h (endStartup_calm (s := u.raise .flashStall) _ hw),
      fun hw => hstall h (endStartup_warned (s := u.raise .flashStall) _ hw)⟩,
    fun h => reaches_of_event rfl (startupLimitDue_notDue (s := u) h)⟩
  case startup =>
    have hshown {x : Shown} (hx : s.shown st = x) : u.firstStatus st =
        match (generalizing := false) x with
        | .ready => v.endStartup .idle
        | .busy => begun v false
        | .suspended => v.resumeStartup := by
      subst hx
      rfl
    exact ⟨fun hready hw => hfirst h hp ((hshown hready).trans (endStartup_calm (s := v) _ hw)),
      fun hready hw => hfirst h hp ((hshown hready).trans (endStartup_warned (s := v) _ hw)),
      fun hbusy => hfirst h hp (hshown hbusy), fun hsusp => hfirst h hp (hshown hsusp)⟩

end Sys2Proof.Machine
end

section
/-! SUPPORT. The write lane while a control record's reply waits to be placed or its command goes on (R168, R170): settling sees the rest of the part as if the lane were empty. -/

namespace Sys2Proof.Machine

/-- The part with a control record as the write in progress and no overlay (R168). -/
def State.asRecord (y : State) (w : WriteInProgress) : State :=
  { y with port := { y.port with write := some w }, control := { y.control with overlay := none } }

/-- The control record of a command, its reply waiting to be placed. -/
def State.replyRecord (y : State) (line : Addr) (code : Byte) (args : List Byte) (r : Reply) : WriteInProgress :=
  { req := controlRecord y.control.key (lineOf line) code args, accepted := y.now, hold := none, stage := .replying code r,
    decision := none }

/-- No read waits on a hazard. -/
def State.NoHazardWait (y : State) : Prop := ∀ r ∈ y.port.reads, r.stage ≠ .waitingHazard

theorem noHazardWait_of_atRest {s : State} (h : s.atRest) (hfree : s.port.write = none) : s.NoHazardWait := by
  intro r hr hstage
  have hhazard := ((atRest_iff s).mp h).2.2.1
  have hover : s.canReleaseHazard = true :=
    List.any_eq_true.mpr ⟨r, hr, by simp [State.hazardOver, State.hazard, hfree, hstage]⟩
  exact Bool.false_ne_true (hhazard.symm.trans hover)

theorem canReleaseHazard_of_noHazardWait {s : State} (h : s.NoHazardWait) : s.canReleaseHazard = false := by
  refine List.any_eq_false.mpr fun r hr => ?_
  simp [State.hazardOver, h r hr]

/-! ### Grants do not see the record -/

section
variable (y : State) (w : WriteInProgress)

theorem issueMissRead_asRecord (t : Nat) : (y.asRecord w).issueMissRead t = (y.issueMissRead t).asRecord w := by
  unfold State.issueMissRead
  rw [show (y.asRecord w).readOf t = y.readOf t from rfl]
  cases y.readOf t <;> rfl

theorem grantMiss_asRecord (t : Nat) (l : List Nat) : (y.asRecord w).grantMiss t l = (y.grantMiss t l).asRecord w :=
  congrArg (fun x : State => x.withSeq { y.countShare.seq with misses := l, st := .reading (.miss t) })
    (issueMissRead_asRecord y.countShare w t)

theorem issueStep_asRecord (d : Sector) (c : CommitStep) : (y.asRecord w).issueStep d c = (y.issueStep d c).asRecord w := by
  cases c <;> rfl

theorem startCommit_asRecord (i : Nat) (l : List Nat) : (y.asRecord w).startCommit i l = (y.startCommit i l).asRecord w := by
  have staged (g : Staging) (d : Sector) (c : CommitStep) :
      ((y.asRecord w).withStaging g).issueStep d c = ((y.withStaging g).issueStep d c).asRecord w :=
    issueStep_asRecord (y.withStaging g) w d c
  unfold State.startCommit
  rw [show (y.asRecord w).staging = y.staging from rfl]
  split
  case h_1 d c _ =>
    dsimp only
    split
    case h_1 step _ => exact staged _ d step
    case h_2 => rfl
  case h_2 => rfl

theorem grantCommit_asRecord : (y.asRecord w).grantCommit = y.grantCommit.asRecord w := by
  unfold State.grantCommit
  dsimp only
  rw [show (y.asRecord w).zeroShare = y.zeroShare.asRecord w from rfl, show (y.zeroShare.asRecord w).staging = y.zeroShare.staging from rfl]
  split
  case h_1 i _ =>
    split
    case h_1 d _ p _ => exact issueStep_asRecord y.zeroShare w d p.step
    case h_2 => rfl
  case h_2 =>
    split
    case h_1 => rfl
    case h_2 i rest _ => exact startCommit_asRecord y.zeroShare w i rest

theorem grantSleep_asRecord : (y.asRecord w).grantSleep = y.grantSleep.asRecord w := by
  unfold State.grantSleep
  dsimp only
  rw [show (y.asRecord w).power = y.power from rfl]
  split <;> rfl

theorem grantNext_asRecord : (y.asRecord w).grantNext = y.grantNext.asRecord w := by
  unfold State.grantNext
  rw [show (y.asRecord w).commitClaim = y.commitClaim from rfl, show (y.asRecord w).seq = y.seq from rfl]
  split
  case isTrue => exact grantCommit_asRecord y w
  case isFalse =>
    split
    case h_1 t l _ => exact grantMiss_asRecord y w t l
    case h_2 => rfl
    case h_3 =>
      split
      · exact grantCommit_asRecord y w
      · exact grantSleep_asRecord y w

theorem completeDrain_asRecord : (y.asRecord w).completeDrain = y.completeDrain.asRecord w := by
  unfold State.completeDrain
  rw [show (y.asRecord w).power = y.power from rfl]
  split <;> rfl

end

/-! ### What is due behind the record -/

section
variable {y : State} {w : WriteInProgress} {c : Byte} {r : Reply}

/-- Where nothing goes before it, the reply is placed. -/
theorem settleOnce_places {z : State} (hw : z.port.write = some w) (hstage : w.stage = .replying c r)
    (hreset : z.softResetDue = false) (hhazard : z.canReleaseHazard = false) (hspoiled : z.sleepSpoiled = false)
    (hgrant : z.canGrant = false) (hdrain : z.drainDue = false) (hsafe : z.safeDue = false) :
    settleOnce z = some ((z.withControl { z.control with overlay := some (replyOverlay z w.req.line c r) }).answerControl) := by
  have hrelease : z.canReleaseWrite = false := by simp only [State.canReleaseWrite, hw, hstage]
  have hplace : z.canPlaceReply = true := by
    obtain ⟨req, accepted, hold, stage, decision⟩ := w
    subst hstage
    simp only [State.canPlaceReply, hw]
  simp only [settleOnce, hreset, hrelease, hhazard, hspoiled, hgrant, hdrain, hsafe, hplace, State.placeReply, hw, hstage,
    Bool.false_eq_true, if_false, if_true]

variable (hstage : w.stage = .replying c r) (hnohazard : y.NoHazardWait)
include hstage

theorem canReleaseWrite_asRecord : (y.asRecord w).canReleaseWrite = false := by
  simp only [State.canReleaseWrite, State.asRecord, hstage]

theorem ordinaryWrite_asRecord : (y.asRecord w).ordinaryWrite = false := by
  obtain ⟨req, accepted, hold, stage, decision⟩ := w
  subst hstage
  rfl

include hnohazard

theorem settleOnce_asRecord_grants (hreset : y.softResetDue = false) (hspoiled : y.sleepSpoiled = false)
    (hgrant : y.canGrant = true) : settleOnce (y.asRecord w) = some (y.grantNext.asRecord w) := by
  have hhazard : (y.asRecord w).canReleaseHazard = false := canReleaseHazard_of_noHazardWait hnohazard
  have hreset' : (y.asRecord w).softResetDue = false := hreset
  have hspoiled' : (y.asRecord w).sleepSpoiled = false := hspoiled
  have hgrant' : (y.asRecord w).canGrant = true := hgrant
  simp only [settleOnce, hreset', canReleaseWrite_asRecord hstage, hhazard, hspoiled', hgrant', grantNext_asRecord,
    Bool.false_eq_true, if_false, if_true]

theorem settleOnce_asRecord_drains (hreset : y.softResetDue = false) (hspoiled : y.sleepSpoiled = false)
    (hgrant : y.canGrant = false) (hdrain : y.drainDue = true) :
    settleOnce (y.asRecord w) = some (y.completeDrain.asRecord w) := by
  have hhazard : (y.asRecord w).canReleaseHazard = false := canReleaseHazard_of_noHazardWait hnohazard
  have hreset' : (y.asRecord w).softResetDue = false := hreset
  have hspoiled' : (y.asRecord w).sleepSpoiled = false := hspoiled
  have hgrant' : (y.asRecord w).canGrant = false := hgrant
  have hdrain' : (y.asRecord w).drainDue = true := by
    simp only [State.drainDue, State.drainCondition, ordinaryWrite_asRecord hstage, Bool.and_eq_true] at hdrain ⊢
    obtain ⟨⟨hst, hcalm, -⟩, hsoft⟩ := hdrain
    exact ⟨⟨hst, hcalm, rfl⟩, hsoft⟩
  simp only [settleOnce, hreset', canReleaseWrite_asRecord hstage, hhazard, hspoiled', hgrant', hdrain', completeDrain_asRecord,
    Bool.false_eq_true, if_false, if_true]

end

/-! ### A record whose command makes more due in the event -/

section
variable {y : State} {w : WriteInProgress} {line : Addr} {code : Byte} {args : List Byte} {r : Reply}

/-- What is not due with the lane empty is not due with a record in it. -/
theorem settleOnce_asRecord_places (hstage : w.stage = .replying code r) (hrest : y.atRest) (hfree : y.port.write = none) :
    settleOnce (y.asRecord w) =
      some ((y.withControl { y.control with overlay := some (replyOverlay y w.req.line code r) }).giveAnswer
        (writeAnswer w.req (.ok []))) := by
  obtain ⟨hreset, -, -, hspoiled, hgrant, -, hdrain, hsafe, -, -, -⟩ := (atRest_iff y).mp hrest
  have hnone : y.NoHazardWait := noHazardWait_of_atRest hrest hfree
  have hhazard : (y.asRecord w).canReleaseHazard = false := canReleaseHazard_of_noHazardWait hnone
  have hdrain' : (y.asRecord w).drainDue = false := by
    refine Eq.trans ?_ hdrain
    have hordinary : y.ordinaryWrite = false := by rw [State.ordinaryWrite, hfree]
    simp only [State.drainDue, State.drainCondition, ordinaryWrite_asRecord hstage, hordinary]
    rfl
  rw [settleOnce_places (z := y.asRecord w) rfl hstage hreset hhazard hspoiled hgrant hdrain' hsafe]
  have hport : ({ y.port with write := none } : Port) = y.port := by
    cases hp : y.port
    rw [hp] at hfree
    cases hfree
    rfl
  refine congrArg some ?_
  exact congrArg (fun p => ((y.withControl { y.control with overlay := some (replyOverlay y w.req.line code r) }).withPort
    p).giveAnswer (writeAnswer w.req (.ok []))) hport

/-- The reply of a record at a line, placed in a part at rest. -/
theorem settleOnce_replyRecord (hkey : y.control.key.length = 8) (hrest : y.atRest) (hfree : y.port.write = none) :
    settleOnce (y.asRecord (y.replyRecord line code args r)) = some (y.replied line code r) ∧ (y.replied line code r).atRest := by
  refine ⟨(settleOnce_asRecord_places (code := code) (r := r) rfl hrest hfree).trans ?_,
    atRest_of_quiet hrest hfree rfl ⟨rfl, rfl, rfl, rfl, rfl, rfl, rfl, rfl⟩⟩
  have hanswer : writeAnswer (y.replyRecord line code args r).req (.ok []) = recordAnswer line := by
    simp only [writeAnswer, State.replyRecord, controlRecord, recordAnswer, List.length_map, length_recordBytes hkey]
  rw [hanswer]
  rfl

/-- A record whose command leaves the part `y`, the reply waiting, is followed by the grants `y` allows and the reply. -/
theorem record_granted {s : State} (h : s.ReadyFor line)
    (hx : finishCommand code (execCode (roomAt (lineOf line)) code (padTo 53 args) (s.clearOut.executing line code args)) =
      y.asRecord (y.replyRecord line code args r))
    (hkey : y.control = s.control) (hport : y.port = s.port) (hreset : y.softResetDue = false)
    (hspoiled : y.sleepSpoiled = false) (hrest : y.granted.atRest) :
    event (fun s => s.presentRecord line code args) s = y.granted.replied line code r := by
  have haccepted := record_accepted h.clearOut code args
  rw [hx] at haccepted
  have hlength : y.control.key.length = 8 := by rw [hkey]; exact h.key
  have hfree : y.port.write = none := by rw [hport]; exact h.free
  have hnohazard : y.NoHazardWait := by
    have := noHazardWait_of_atRest h.rest h.free
    rwa [State.NoHazardWait, ← hport] at this
  by_cases hgrant : y.canGrant = true
  case neg =>
    rw [State.granted, if_neg hgrant] at hrest ⊢
    obtain ⟨hplaced, hdone⟩ := settleOnce_replyRecord (line := line) (code := code) (args := args) (r := r) hlength hrest hfree
    exact settle_two haccepted hplaced hdone
  case pos =>
    rw [State.granted, if_pos hgrant] at hrest ⊢
    have hgranted := settleOnce_asRecord_grants (w := y.replyRecord line code args r) rfl hnohazard hreset hspoiled hgrant
    have hlength' : y.grantNext.control.key.length = 8 := by simpa using hlength
    have hfree' : y.grantNext.port.write = none := by simpa using hfree
    obtain ⟨hplaced, hdone⟩ := settleOnce_replyRecord (line := line) (code := code) (args := args) (r := r) hlength' hrest hfree'
    have hsame : y.replyRecord line code args r = y.grantNext.replyRecord line code args r := by
      simp only [State.replyRecord, State.now, State.grantNext_frame]
    rw [hsame] at hgranted haccepted
    exact settle_three haccepted hgranted hplaced hdone

end

/-! ### FLUSH (R39) -/

theorem flushCounts_eq (es : List Entry) : flushCounts es = [
    BitVec.ofNat 8 (es.countP fun e => match e with | .opened d _ => hasDirty d | _ => false),
    BitVec.ofNat 8 (es.countP fun e => match e with | .filling _ f => f.closeOnFill == none | _ => false),
    BitVec.ofNat 8 (es.countP fun e => match e with | .opened d _ => !hasDirty d | _ => false)] := by
  have hclosed (e : Entry) : (closeEffect e == .madeClosed) = (match e with | .opened d _ => hasDirty d | _ => false) := by
    cases e with
    | opened d t => cases hd : hasDirty d <;> simp [closeEffect, hd]
    | filling d f => cases hf : f.closeOnFill <;> simp [closeEffect, hf]
    | _ => rfl
  have hmarked (e : Entry) : (closeEffect e == .marked) = (match e with | .filling _ f => f.closeOnFill == none | _ => false) := by
    cases e with
    | opened d t => cases hd : hasDirty d <;> simp [closeEffect, hd]
    | filling d f => cases hf : f.closeOnFill <;> simp [closeEffect, hf]
    | _ => rfl
  have hclean (e : Entry) : (closeEffect e == .madeClean) = (match e with | .opened d _ => !hasDirty d | _ => false) := by
    cases e with
    | opened d t => cases hd : hasDirty d <;> simp [closeEffect, hd]
    | filling d f => cases hf : f.closeOnFill <;> simp [closeEffect, hf]
    | _ => rfl
  simp only [flushCounts, hclosed, hmarked, hclean]
  rfl

/-- A change of the staging table alone makes no soft reset due, and spoils no sleep request where none stands. -/
theorem withStaging_notSpoiled {s : State} (g : Staging) (hrest : s.atRest) (hreq : s.seq.powerReq = none) :
    (s.clearOut.withStaging g).softResetDue = false ∧ (s.clearOut.withStaging g).sleepSpoiled = false := by
  refine ⟨((atRest_iff s).mp hrest).1, ?_⟩
  simp [State.sleepSpoiled, hreq]

/-- Settles O26. -/
theorem flushClosesEntries : Obligations.FlushClosesEntries := by
  refine ⟨flushCounts_eq, fun s line scope sector h hreq => ?_⟩
  intro all
  have hx := execCode_flush (room := roomAt (lineOf line))
    (s := s.clearOut.executing line 0x40 (scope :: le2 sector.toNat)) scope sector
  have hcloses (g : Staging) (p : List Byte) (hg : cmdFlush scope sector (s.clearOut.executing line 0x40 (scope :: le2 sector.toNat)) =
      accept ((s.clearOut.executing line 0x40 (scope :: le2 sector.toNat)).withStaging g) p)
      (hrest : (s.clearOut.withStaging g).granted.atRest) :
      exec (.flush line scope sector) s = .next ((s.clearOut.withStaging g).granted.repliedAccepted line 0x40 p) := by
    obtain ⟨hreset, hspoiled⟩ := withStaging_notSpoiled g h.rest hreq
    exact congrArg Host.Outcome.next
      (record_granted h (congrArg (finishCommand 0x40) (hx.trans hg)) rfl rfl hreset hspoiled hrest)
  have hrefuses (hr : cmdFlush scope sector (s.clearOut.executing line 0x40 (scope :: le2 sector.toNat)) =
      refuse (s.clearOut.executing line 0x40 (scope :: le2 sector.toNat)) .refusedRange []) :
      exec (.flush line scope sector) s = .next (s.clearOut.repliedRefused line 0x40 .refusedRange []) :=
    congrArg Host.Outcome.next (refusedRecord_event h (hx.trans hr))
  refine ⟨fun hscope hrest => hcloses _ _ (if_pos hscope) hrest, fun hscope hbeyond => ?beyond, fun hscope hin hfind => ?none,
    fun i hscope hin hfind => ?one, fun hscope => ?other⟩
  case other =>
    have hne : scope ≠ 0x00 ∧ scope ≠ 0x01 := by bv_omega
    exact hrefuses ((if_neg hne.1).trans (if_neg hne.2))
  all_goals
    subst hscope
    have hcmd := ((if_neg (by decide)).trans (if_pos rfl) :
      cmdFlush 0x01 sector (s.clearOut.executing line 0x40 (0x01 :: le2 sector.toNat)) = _)
  case beyond => exact hrefuses (hcmd.trans (if_pos hbeyond))
  case none =>
    have hnone : cmdFlush 0x01 sector (s.clearOut.executing line 0x40 (0x01 :: le2 sector.toNat)) =
        accept (s.clearOut.executing line 0x40 (0x01 :: le2 sector.toNat)) [0, 0, 0] := by
      refine hcmd.trans ((if_neg (Bool.eq_false_iff.mp hin)).trans ?_)
      rw [show (s.clearOut.executing line 0x40 (0x01 :: le2 sector.toNat)).staging = s.staging from rfl, hfind]
      rfl
    exact congrArg Host.Outcome.next (quietRecord_event h (hx.trans hnone) rfl ⟨rfl, rfl, rfl, rfl, rfl, rfl, rfl, rfl⟩)
  case one =>
    intro one hrest
    refine hcloses _ _ (hcmd.trans ((if_neg (Bool.eq_false_iff.mp hin)).trans ?_)) hrest
    rw [show (s.clearOut.executing line 0x40 (0x01 :: le2 sector.toNat)).staging = s.staging from rfl, hfind]

end Sys2Proof.Machine
end

section
/-! SUPPORT. The control records that move the staging table, the power state or the fuses: FAULT-RETRY and FAULT-DISCARD (R54, R55), SLEEP and WAKE (R142, R145, R147), PROGRAM-FUSE and LOCK-FUSE (R179 to R181). -/

namespace Sys2Proof.Machine

/-! ### FAULT-RETRY and FAULT-DISCARD (R54, R55) -/

section
variable {s : State} {n : Half}

theorem cmdFaultRetry_notFound (hin : s.beyondSectors n.toNat = false) (he : s.power.st ≠ .emergency) (hs : s.power.st ≠ .safe)
    (h : ∀ i d r, s.staging.find n.toNat = some i → s.staging.entry i ≠ .faulted d r) :
    cmdFaultRetry n s = refuse s .notFound [] := by
  have hpower : ¬ (s.power.st = .emergency ∨ s.power.st = .safe) := fun hp => hp.elim he hs
  simp only [cmdFaultRetry, hin, Bool.false_eq_true, if_false, if_neg hpower]
  split
  case h_1 => rfl
  case h_2 i hi =>
    split
    case h_1 d r hd => exact absurd hd (h i d r hi)
    case h_2 => rfl

theorem cmdFaultRetry_faulted {i : Nat} {d : Sector} {r : FaultRecord} (hin : s.beyondSectors n.toNat = false)
    (he : s.power.st ≠ .emergency) (hs : s.power.st ≠ .safe) (hi : s.staging.find n.toNat = some i)
    (hd : s.staging.entry i = .faulted d r) : cmdFaultRetry n s =
      accept (s.withStaging { s.staging with entries := s.staging.entries.set i (.closed d .retry),
                                             closeQueue := s.staging.closeQueue ++ [i] }) [] := by
  have hpower : ¬ (s.power.st = .emergency ∨ s.power.st = .safe) := fun hp => hp.elim he hs
  simp only [cmdFaultRetry, hin, Bool.false_eq_true, if_false, if_neg hpower, hi, hd]
  rfl

theorem cmdFaultDiscard_notFound (hin : s.beyondSectors n.toNat = false)
    (h : ∀ i d r, s.staging.find n.toNat = some i → s.staging.entry i ≠ .faulted d r) :
    cmdFaultDiscard n s = refuse s .notFound [] := by
  simp only [cmdFaultDiscard, hin, Bool.false_eq_true, if_false]
  split
  case h_1 => rfl
  case h_2 i hi =>
    split
    case h_1 d r hd => exact absurd hd (h i d r hi)
    case h_2 => rfl

theorem cmdFaultDiscard_faulted {i : Nat} {d : Sector} {r : FaultRecord} (hin : s.beyondSectors n.toNat = false)
    (hi : s.staging.find n.toNat = some i) (hd : s.staging.entry i = .faulted d r) : cmdFaultDiscard n s =
      accept ((s.withStaging { s.staging with entries := s.staging.entries.set i .free }).resolveAfresh
        (Read.fromEntry i d.number)) [] := by
  simp only [cmdFaultDiscard, hin, Bool.false_eq_true, if_false, hi, hd]
  rfl

end

/-- Where no read is picked, nothing is resolved afresh. -/
theorem resolveAfresh_none {s : State} {p : Read → Bool} (h : s.port.reads.all (fun r => !p r) = true) : s.resolveAfresh p = s := by
  have hfilter : s.port.reads.filter p = [] := by
    simpa [List.filter_eq_nil_iff, List.all_eq_true] using h
  rw [State.resolveAfresh, hfilter]
  rfl

theorem fromEntry_iff (r : Read) (i n : Nat) : r.fromEntry i n = true ↔
    sectorOf r.req.line = n ∧ ∃ bs, r.stage = .resolved (.ok bs (.entry i)) := by
  obtain ⟨tag, req, decision, stage⟩ := r
  unfold Read.fromEntry
  split
  case h_1 bs m hstage =>
    simp only at hstage
    simp [hstage, and_comm]
  case h_2 hstage =>
    simp only [Bool.false_eq_true, false_iff, not_and, not_exists]
    exact fun _ bs hbs => hstage bs i hbs

/-- A state whose lane holds a command's record waits with the reply. -/
theorem finishCommand_of_write {code : Byte} {r : Reply} {x : State} {w : WriteInProgress} (hw : x.port.write = some w) :
    finishCommand code (x, some r) = x.setWrite (some { w with stage := .replying code r }) := by
  simp only [finishCommand, State.setReply, hw]

/-- Settles O28. -/
theorem faultCommandsActOnTheFaultedEntry : Obligations.FaultCommandsActOnTheFaultedEntry := by
  refine ⟨fun s line n h hreq => ?retry, fun s line n h hreq => ?discard, fromEntry_iff⟩
  case retry =>
    intro refused
    have hx := execCode_faultRetry (room := roomAt (lineOf line)) (s := s.clearOut.executing line 0x42 (le2 n.toNat)) n
    have hrefuses {x : Status} (hr : cmdFaultRetry n (s.clearOut.executing line 0x42 (le2 n.toNat)) =
        refuse (s.clearOut.executing line 0x42 (le2 n.toNat)) x []) : exec (.faultRetry line n) s = refused x :=
      congrArg Host.Outcome.next (refusedRecord_event h (hx.trans hr))
    refine ⟨fun hbeyond => hrefuses (if_pos hbeyond),
      fun hin hpower => hrefuses ((if_neg (Bool.eq_false_iff.mp hin)).trans (if_pos hpower)),
      fun hin he hs hnone => hrefuses (cmdFaultRetry_notFound hin he hs hnone), fun i d r hin he hs hi hd => ?_⟩
    intro x hrest
    have hg := cmdFaultRetry_faulted (s := s.clearOut.executing line 0x42 (le2 n.toNat)) hin he hs hi hd
    obtain ⟨hreset, hspoiled⟩ := withStaging_notSpoiled { s.staging with entries := s.staging.entries.set i (.closed d .retry),
                                                                         closeQueue := s.staging.closeQueue ++ [i] } h.rest hreq
    exact congrArg Host.Outcome.next
      (record_granted h (congrArg (finishCommand 0x42) (hx.trans hg)) rfl rfl hreset hspoiled hrest)
  case discard =>
    have hx := execCode_faultDiscard (room := roomAt (lineOf line)) (s := s.clearOut.executing line 0x43 (le2 n.toNat)) n
    have hrefuses {x : Status} (hr : cmdFaultDiscard n (s.clearOut.executing line 0x43 (le2 n.toNat)) =
        refuse (s.clearOut.executing line 0x43 (le2 n.toNat)) x []) :
        exec (.faultDiscard line n) s = .next (s.clearOut.repliedRefused line 0x43 x []) :=
      congrArg Host.Outcome.next (refusedRecord_event h (hx.trans hr))
    refine ⟨fun hbeyond => hrefuses (if_pos hbeyond), fun hin hnone => hrefuses (cmdFaultDiscard_notFound hin hnone),
      fun i d r hin hi hd hreads => ?free, fun i d r hin hi hd => ?held⟩
    case free =>
      intro x hrest
      have hg := cmdFaultDiscard_faulted (s := s.clearOut.executing line 0x43 (le2 n.toNat)) hin hi hd
      have hcmd := hx.trans (hg.trans (congrArg (accept · []) (resolveAfresh_none hreads)))
      obtain ⟨hreset, hspoiled⟩ := withStaging_notSpoiled { s.staging with entries := s.staging.entries.set i .free } h.rest hreq
      have hgranted : x.granted = x := if_neg (Bool.eq_false_iff.mp ((atRest_iff x).mp hrest).2.2.2.2.1)
      have hevent := record_granted (y := x) h (congrArg (finishCommand 0x43) hcmd) rfl rfl hreset hspoiled
        (by rwa [hgranted])
      rw [hgranted] at hevent
      exact congrArg Host.Outcome.next hevent
    case held =>
      intro freed held
      refine ⟨ResolvesAfresh.exists_filter freed _, fun x hafresh => ?_⟩
      have hg := cmdFaultDiscard_faulted (s := s.clearOut.executing line 0x43 (le2 n.toNat)) hin hi hd
      obtain ⟨hfold, hwrite⟩ := hafresh.foldl_eq
      have hcmd := hx.trans (hg.trans (congrArg (accept · []) hfold))
      refine reaches_of_step rfl ((record_accepted h.clearOut 0x43 (le2 n.toNat)).trans (congrArg some ?_))
      exact (congrArg (finishCommand 0x43) hcmd).trans (finishCommand_of_write hwrite)

/-! ### SLEEP (R142, R143) -/

/-- A record whose command completes a drain in the event: with flash-deep-sleep on the flash SLEEP is granted in the same
event, with it off SLEEP is entered at once (R143). -/
theorem record_drained {s y : State} {line : Addr} {code : Byte} {args : List Byte} {r : Reply} (h : s.ReadyFor line)
    (hx : finishCommand code (execCode (roomAt (lineOf line)) code (padTo 53 args) (s.clearOut.executing line code args)) =
      y.asRecord (y.replyRecord line code args r))
    (hkey : y.control = s.control) (hport : y.port = s.port) (hreset : y.softResetDue = false)
    (hspoiled : y.sleepSpoiled = false) (hgrant : y.canGrant = false) (hdrain : y.drainDue = true)
    (hrest : (if y.power.policy.deepSleep then (y.setPowerReq (some .sleep)).grantSleep else y.enterSleep).atRest) :
    event (fun s => s.presentRecord line code args) s =
      (if y.power.policy.deepSleep then (y.setPowerReq (some .sleep)).grantSleep else y.enterSleep).replied line code r := by
  have haccepted := record_accepted h.clearOut code args
  rw [hx] at haccepted
  have hlength : y.control.key.length = 8 := by rw [hkey]; exact h.key
  have hfree : y.port.write = none := by rw [hport]; exact h.free
  have hnohazard : y.NoHazardWait := by
    have := noHazardWait_of_atRest h.rest h.free
    rwa [State.NoHazardWait, ← hport] at this
  have hdrained := settleOnce_asRecord_drains (w := y.replyRecord line code args r) rfl hnohazard hreset hspoiled hgrant hdrain
  obtain ⟨hst, -, hcond, hsoft⟩ := (drainDue_iff y).mp hdrain
  obtain ⟨hcalm, hidle, hmisses, -⟩ := (drainCondition_iff y).mp hcond
  cases hdeep : y.power.policy.deepSleep with
  | false =>
    rw [hdeep] at hrest
    have hcomplete : y.completeDrain = y.enterSleep := if_neg (Bool.eq_false_iff.mp hdeep)
    rw [hcomplete] at hdrained
    obtain ⟨hplaced, hdone⟩ := settleOnce_replyRecord (y := y.enterSleep) (line := line) (code := code) (args := args) (r := r)
      hlength hrest hfree
    exact settle_three haccepted hdrained hplaced hdone
  | true =>
    rw [hdeep] at hrest
    have hcomplete : y.completeDrain = y.setPowerReq (some .sleep) := if_pos hdeep
    rw [hcomplete] at hdrained
    have hclaims : y.claimWaiting = false := by
      have hneither : y.claimWaiting = false ∧ y.seq.powerReq ≠ some .sleep := by
        simpa [State.canGrant, hidle, hsoft] using hgrant
      exact hneither.1
    obtain ⟨hfills, hcommit⟩ : y.seq.fills = [] ∧ y.commitClaim = false := by
      simpa [State.claimWaiting, hmisses] using hclaims
    have hspoiled' : (y.setPowerReq (some .sleep)).sleepSpoiled = false := by
      have hcalm' : (y.setPowerReq (some .sleep)).unwritten = false := hcalm
      simp [State.sleepSpoiled, hcalm']
    have hgrant' : (y.setPowerReq (some .sleep)).canGrant = true := by
      simp [State.canGrant, hidle, hsoft, State.setPowerReq]
    have hnext : (y.setPowerReq (some .sleep)).grantNext = (y.setPowerReq (some .sleep)).grantSleep := by
      have hcommit' : (y.setPowerReq (some .sleep)).commitClaim = false := hcommit
      have hmisses' : (y.setPowerReq (some .sleep)).seq.misses = [] := hmisses
      have hfills' : (y.setPowerReq (some .sleep)).seq.fills = [] := hfills
      simp only [State.grantNext, hcommit', hmisses', hfills', Bool.false_and, Bool.false_eq_true, if_false]
    have hgranted := settleOnce_asRecord_grants (y := y.setPowerReq (some .sleep)) (w := y.replyRecord line code args r)
      rfl hnohazard hreset hspoiled' hgrant'
    rw [hnext] at hgranted
    have hlength' : (y.setPowerReq (some .sleep)).grantSleep.control.key.length = 8 := by simpa using hlength
    have hfree' : (y.setPowerReq (some .sleep)).grantSleep.port.write = none := by simpa using hfree
    obtain ⟨hplaced, hdone⟩ := settleOnce_replyRecord (line := line) (code := code) (args := args) (r := r) hlength' hrest hfree'
    have hsame : y.replyRecord line code args r = (y.setPowerReq (some .sleep)).grantSleep.replyRecord line code args r := by
      simp [State.replyRecord, State.now]
    rw [← hsame] at hplaced
    exact settle_four haccepted hdrained hgranted hplaced hdone

theorem drainPart_executing (s : State) (line : Addr) (code : Byte) (args : List Byte) (r : Reply) (p : Power) (g : Staging) :
    finishCommand code (((s.executing line code args).withPower p).withStaging g, some r) =
      ((s.withPower p).withStaging g).asRecord (((s.withPower p).withStaging g).replyRecord line code args r) := rfl

theorem drainPart_frame (s : State) (p : Power) (g : Staging) :
    ((s.clearOut.withPower p).withStaging g).control = s.control ∧ ((s.clearOut.withPower p).withStaging g).port = s.port ∧
    ((s.clearOut.withPower p).withStaging g).power.policy = p.policy := ⟨rfl, rfl, rfl⟩

/-! ### WAKE (R145, R147) -/

theorem wakePart_executing (s : State) (line : Addr) (code : Byte) (args : List Byte) (r : Reply) :
    finishCommand code ((s.executing line code args).wakePart, some r) =
      s.wakePart.asRecord (s.wakePart.replyRecord line code args r) := by
  by_cases hasleep : s.seq.st = .asleep
  case neg =>
    rw [wakePart_flashAwake (s := s.executing line code args) hasleep, wakePart_flashAwake hasleep]
    rfl
  case pos =>
    by_cases hdelay : s.wakeDelay = 0
    case neg =>
      rw [wakePart_delayed (s := s.executing line code args) hasleep hdelay, wakePart_delayed hasleep hdelay]
      rfl
    case pos =>
      rw [wakePart_undelayed (s := s.executing line code args) hasleep hdelay, wakePart_undelayed hasleep hdelay]
      rfl

/-- A record whose command leaves the part `y` at rest, the reply waiting, is answered there. -/
theorem record_atRest {s y : State} {line : Addr} {code : Byte} {args : List Byte} {r : Reply} (h : s.ReadyFor line)
    (hx : finishCommand code (execCode (roomAt (lineOf line)) code (padTo 53 args) (s.clearOut.executing line code args)) =
      y.asRecord (y.replyRecord line code args r))
    (hkey : y.control = s.control) (hport : y.port = s.port) (hrest : y.atRest) :
    event (fun s => s.presentRecord line code args) s = y.replied line code r := by
  obtain ⟨hreset, -, -, hspoiled, hgrant, -⟩ := (atRest_iff y).mp hrest
  have hgranted : y.granted = y := if_neg (Bool.eq_false_iff.mp hgrant)
  have hevent := record_granted h hx hkey hport hreset hspoiled (by rwa [hgranted])
  rwa [hgranted] at hevent

/-- Settles O30. -/
theorem sleepAndWakeMoveThePowerState : Obligations.SleepAndWakeMoveThePowerState := by
  refine ⟨fun s line h hreq => ⟨fun hst => ?refused, fun hst => ?sleep⟩, fun s line h => ⟨fun hst hrest => ?wake, fun hst => ?awake,
    fun hsleep hwaking hrun => ?denied⟩, fun s => ?leaves⟩
  case refused =>
    exact congrArg Host.Outcome.next (refusedRecord_event h ((execCode_sleep ..).trans (if_neg hst)))
  case sleep =>
    intro c x hrest
    have hcmd : cmdSleep (s.clearOut.executing line 0x60 []) =
        accept ((s.clearOut.executing line 0x60 []).withPower { s.power with
          st := .drain, drainExpiry := some (tickAfter s.now s.time.timing.drainLimit.toNat) } |>.withStaging
            (s.staging.closeAll .drain)) [] := if_pos hst
    have hx := (congrArg (finishCommand 0x60) ((execCode_sleep (s.clearOut.executing line 0x60 []) (roomAt (lineOf line))
      (padTo 53 [])).trans hcmd)).trans (drainPart_executing s.clearOut line 0x60 [] _ _ _)
    have hreset : c.softResetDue = false := ((atRest_iff s).mp h.rest).1
    have hspoiled : c.sleepSpoiled = false := by
      have hreq' : c.seq.powerReq = none := hreq
      simp [State.sleepSpoiled, hreq']
    obtain ⟨hcontrol, hport, hpolicy⟩ : c.control = s.control ∧ c.port = s.port ∧ c.power.policy = s.power.policy :=
      drainPart_frame s _ _
    refine congrArg Host.Outcome.next ?_
    change event (fun s => s.presentRecord line 0x60 []) s = x.replied line 0x60 (acceptedReply [])
    replace hx : finishCommand 0x60 (execCode (roomAt (lineOf line)) 0x60 (padTo 53 []) (s.clearOut.executing line 0x60 [])) =
      c.asRecord (c.replyRecord line 0x60 [] (acceptedReply [])) := hx
    clear_value c
    by_cases hgrant : c.canGrant = true
    case pos =>
      have hgranted : c.granted = x := (if_pos hgrant).trans (if_pos hgrant).symm
      have hevent := record_granted h hx hcontrol hport hreset hspoiled (by rwa [hgranted])
      rwa [hgranted] at hevent
    case neg =>
      by_cases hdrain : c.drainDue = true
      case pos =>
        have hdrained : x = if c.power.policy.deepSleep then (c.setPowerReq (some .sleep)).grantSleep else c.enterSleep := by
          rw [hpolicy]
          exact (if_neg hgrant).trans (if_pos hdrain)
        rw [hdrained] at hrest ⊢
        exact record_drained h hx hcontrol hport hreset hspoiled (Bool.eq_false_iff.mpr hgrant) hdrain hrest
      case neg =>
        have hsame : x = c := (if_neg hgrant).trans (if_neg hdrain)
        rw [hsame] at hrest ⊢
        exact record_atRest h hx hcontrol hport hrest
  case wake =>
    have hcmd : cmdWake (s.clearOut.executing line 0x61 []) = accept (s.clearOut.executing line 0x61 []).wakePart [] := by
      have hst' : (s.clearOut.executing line 0x61 []).power.st = .sleep := hst
      rw [cmdWake, hst']
    have hx := (congrArg (finishCommand 0x61) ((execCode_wake (s.clearOut.executing line 0x61 []) (roomAt (lineOf line))
      (padTo 53 [])).trans hcmd)).trans (wakePart_executing s.clearOut line 0x61 [] _)
    have hkey : s.clearOut.wakePart.control = s.control := by simp
    have hport : s.clearOut.wakePart.port = s.port := by simp
    exact congrArg Host.Outcome.next (record_atRest h hx hkey hport hrest)
  case awake =>
    have hcmd : cmdWake (s.clearOut.executing line 0x61 []) = accept (s.clearOut.executing line 0x61 []) [] := by
      have hst' : (s.clearOut.executing line 0x61 []).power.st = .waking ∨ (s.clearOut.executing line 0x61 []).power.st = .run := hst
      obtain hst' | hst' := hst' <;> rw [cmdWake, hst']
    exact congrArg Host.Outcome.next
      (quietRecord_event h ((execCode_wake ..).trans hcmd) rfl ⟨rfl, rfl, rfl, rfl, rfl, rfl, rfl, rfl⟩)
  case denied =>
    have hcmd : cmdWake (s.clearOut.executing line 0x61 []) = refuse (s.clearOut.executing line 0x61 []) .refusedState [] := by
      unfold cmdWake
      rw [show (s.clearOut.executing line 0x61 []).power.st = s.power.st from rfl]
      split
      case h_1 hst => exact absurd hst hsleep
      case h_2 hst => exact absurd hst hwaking
      case h_3 hst => exact absurd hst hrun
      case h_4 => rfl
    exact congrArg Host.Outcome.next (refusedRecord_event h ((execCode_wake ..).trans hcmd))
  case leaves =>
    intro delay
    exact ⟨fun hasleep hdelay => wakePart_delayed hasleep hdelay, fun hasleep hdelay => wakePart_undelayed hasleep hdelay,
      fun hawake => wakePart_flashAwake hawake⟩

end Sys2Proof.Machine
end

section
/-! SUPPORT. PROGRAM-FUSE, LOCK-FUSE and the programming completion (R179 to R181). -/

namespace Sys2Proof.Machine

/-! ### Fuse bytes (R179) -/

@[simp] theorem byteAt_cons_zero (b : Byte) (l : List Byte) : byteAt (b :: l) 0 = b := rfl

theorem byteAt_addBits {l data : List Byte} {n k : Nat} (hk : k < l.length) : byteAt (addBits l n data) k =
    if n ≤ k ∧ k < n + data.length then byteAt l k ||| byteAt data (k - n) else byteAt l k := by
  fun_induction addBits l n data generalizing k with
  | case1 => simp at hk
  | case2 b r d ds ih =>
    cases k with
    | zero => simp
    | succ k => simpa [Nat.add_lt_add_iff_right, byteAt_cons_succ] using ih (k := k) (by simpa using hk)
  | case3 b r => simp
  | case4 b r n ds ih =>
    cases k with
    | zero => simp
    | succ k => simpa [Nat.add_right_comm n 1, byteAt_cons_succ] using ih (k := k) (by simpa using hk)

theorem unprogrammed_eq {data back : List Byte} (h : data.length = back.length) :
    unprogrammed data back = (List.range data.length).countP fun i => byteAt data i &&& ~~~ (byteAt back i) != 0 := by
  induction data generalizing back with
  | nil => cases back <;> rfl
  | cons d ds ih =>
    cases back with
    | nil => simp at h
    | cons b bs =>
      have hrest := ih (back := bs) (by simpa using h)
      rw [unprogrammed] at hrest
      simp only [unprogrammed, List.zipWith_cons_cons, List.countP_cons, hrest, List.length_cons, List.range_succ_eq_map,
        List.countP_map, Function.comp_def, byteAt_cons_zero, byteAt_cons_succ]
      simp

theorem groupArg_eq_none {x : Byte} (h : x = 0 ∨ 3 < x.toNat) : groupArg x = none := by
  have h1 : x ≠ 1 := by bv_omega
  have h2 : x ≠ 2 := by bv_omega
  have h3 : x ≠ 3 := by bv_omega
  rw [groupArg, if_neg h1, if_neg h2, if_neg h3]

theorem padTo_padTo {data : List Byte} {n m : Nat} (hn : n ≤ m) : padTo n (padTo m data) = padTo n data := by
  rw [padTo, List.take_append_of_le_length (by simpa [length_padTo] using hn)]
  simp only [padTo, List.take_take, Nat.min_eq_left hn, List.take_append, List.take_replicate, List.length_take]
  congr 2
  omega

/-! ### The programming of fuses (R179, R180) -/

section
variable {y : State} {w : WriteInProgress} {job : FuseJob}

/-- A part at rest stays at rest while the record of PROGRAM-FUSE is its write in progress. -/
theorem atRest_asRecord_programming (hstage : w.stage = .fuseProgramming job) (hrest : y.atRest) (hfree : y.port.write = none) :
    (y.asRecord w).atRest := by
  have hnone := canReleaseHazard_of_noHazardWait (s := y.asRecord w) (noHazardWait_of_atRest (s := y) hrest hfree)
  obtain ⟨hreset, -, -, hspoiled, hgrant, hanswer, hdrain, hsafe, -, hread, -⟩ := (atRest_iff y).mp hrest
  obtain ⟨req, accepted, hold, stage, decision⟩ := w
  subst hstage
  have hordinary : y.ordinaryWrite = false := by rw [State.ordinaryWrite, hfree]
  have hdrain' : (y.asRecord ⟨req, accepted, hold, .fuseProgramming job, decision⟩).drainDue = false := by
    refine Eq.trans ?_ hdrain
    simp only [State.drainDue, State.drainCondition, hordinary]
    rfl
  exact (atRest_iff _).mpr ⟨hreset, rfl, hnone, hspoiled, hgrant, hanswer, hdrain', hsafe, rfl, hread,
    by simp [State.canAcceptWrite, State.asRecord]⟩

end

theorem cmdProgramFuse_noGroup {x offset count : Byte} {data : List Byte} {s : State} (hx : groupArg x = none) :
    cmdProgramFuse x offset count data s = refuse s .refusedRange [] := by
  rw [cmdProgramFuse, hx]

theorem cmdProgramFuse_locked {g : FuseGroup} {offset count : Byte} {data : List Byte} {s : State}
    (hlock : s.fuses.locked g = true) : cmdProgramFuse g.code offset count data s = refuse s .refusedLocked [] := by
  simp only [cmdProgramFuse, groupArg_code, hlock, if_true]

theorem count_eq_zero_iff (count : Byte) : count = 0 ↔ count.toNat = 0 := by bv_omega

theorem cmdProgramFuse_badSpan {g : FuseGroup} {offset count : Byte} {data : List Byte} {s : State}
    (hlock : s.fuses.locked g = false) (hspan : count.toNat = 0 ∨ 16 < count.toNat ∨ g.size < offset.toNat + count.toNat) :
    cmdProgramFuse g.code offset count data s = refuse s .refusedRange [] := by
  simp only [cmdProgramFuse, groupArg_code, hlock, Bool.false_eq_true, if_false, count_eq_zero_iff, if_pos hspan]

theorem cmdProgramFuse_programs {g : FuseGroup} {offset count : Byte} {data : List Byte} {s : State}
    (hlock : s.fuses.locked g = false) (hspan : ¬ (count.toNat = 0 ∨ 16 < count.toNat ∨ g.size < offset.toNat + count.toNat)) :
    cmdProgramFuse g.code offset count data s =
      (s.startFuses { group := g, offset := offset.toNat, data := padTo count.toNat data }, none) := by
  simp only [cmdProgramFuse, groupArg_code, hlock, Bool.false_eq_true, if_false, count_eq_zero_iff, if_neg hspan]

theorem completeFuses_programming {s : State} {w : WriteInProgress} {job : FuseJob} (failed : List Byte)
    (hw : s.port.write = some w) (hstage : w.stage = .fuseProgramming job) :
    let bytes := addBits (s.fuses.group job.group) job.offset (tookBits failed job.data)
    let back := (bytes.drop job.offset).take job.data.length
    s.completeFuses failed = (s.withFuses (s.fuses.setGroup job.group bytes)).setWrite (some { w with
      stage := .replying 0x70 (acceptedReply
        ([job.group.code, byteOf job.offset, byteOf job.data.length, byteOf (unprogrammed job.data back)] ++ back)) }) := by
  intro bytes back
  have hwrite : (s.withFuses (s.fuses.setGroup job.group bytes)).port.write = some w := hw
  simp only [State.completeFuses, hw, hstage, State.setReply, hwrite, bytes, back]

/-- When the programming is done and nothing else was due, the reply is placed next. -/
theorem settleOnce_places_afterProgramming {s u : State} {w : WriteInProgress} {job : FuseJob} {c : Byte} {r : Reply}
    (hrest : s.atRest) (hw : s.port.write = some w) (hstage : w.stage = .fuseProgramming job) (hport : u.port = s.port)
    (q : s.Quiet u) : settleOnce (u.setWrite (some { w with stage := .replying c r })) =
      some (((u.withControl { u.control with overlay := some (replyOverlay u w.req.line c r) }).setWrite none).giveAnswer
        (writeAnswer w.req (.ok []))) := by
  obtain ⟨hreset, -, hhazard, hspoiled, hgrant, -, hdrain, hsafe, -, -, -⟩ := (atRest_iff s).mp hrest
  obtain ⟨q1, q2, q3, q4, q5, q6, q7, q8⟩ := q
  have hordinary : s.ordinaryWrite = false := by
    obtain ⟨req, accepted, hold, stage, decision⟩ := w
    subst hstage
    rw [State.ordinaryWrite, hw]
  refine settleOnce_places (z := u.setWrite (some { w with stage := .replying c r }))
    (w := { w with stage := .replying c r }) rfl rfl ?reset ?hazard ?spoiled ?grant ?drain ?safe
  case reset => simpa [State.softResetDue, q1, q8] using hreset
  case hazard => simpa [State.canReleaseHazard, State.hazardOver, State.hazard, hport, hw] using hhazard
  case spoiled => simpa [State.sleepSpoiled, State.unwritten, q4, q5, q7] using hspoiled
  case grant =>
    simpa [State.canGrant, State.claimWaiting, State.commitClaim, Staging.hasClaim, q1, q2, q3, q4, q5, q6, q8] using hgrant
  case drain =>
    have hlane : (u.setWrite (some { w with stage := .replying c r })).ordinaryWrite = false := rfl
    simpa [State.drainDue, State.drainCondition, State.unwritten, hordinary, hlane, q1, q2, q4, q5, q7, q8] using hdrain
  case safe => simpa [State.safeDue, State.safeCondition, q1, q5, q7] using hsafe

/-- Settles O31. -/
theorem fuseCommands : Obligations.FuseCommands := by
  refine ⟨fun s line offset count data h hdata => ⟨fun g => ?program, fun x hx' => ?noGroup⟩,
    fun s line h => ⟨fun g => ?lock, fun x hx => ?noLock⟩, fun f g => ?locked, fun s failed w job hrest hw hstage => ?completion,
    fun l data n k hk => ⟨length_addBits l n data, byteAt_addBits hk⟩, fun data back => unprogrammed_eq⟩
  case program =>
    have hx := execCode_programFuse (room := roomAt (lineOf line))
      (s := s.clearOut.executing line 0x70 (g.code :: offset :: count :: data)) g.code offset count data
    have hrefuses {x : Status} (hr : cmdProgramFuse g.code offset count (padTo 50 data)
        (s.clearOut.executing line 0x70 (g.code :: offset :: count :: data)) =
        refuse (s.clearOut.executing line 0x70 (g.code :: offset :: count :: data)) x []) :
        exec (.programFuse line g.code offset count data) s = .next (s.clearOut.repliedRefused line 0x70 x []) :=
      congrArg Host.Outcome.next (refusedRecord_event h (hx.trans hr))
    by_cases hlock : s.fuses.locked g = true
    case pos =>
      rw [if_pos hlock]
      exact hrefuses (cmdProgramFuse_locked hlock)
    case neg =>
      rw [if_neg hlock]
      have hunlocked := Bool.eq_false_iff.mpr hlock
      by_cases hspan : count.toNat = 0 ∨ 16 < count.toNat ∨ g.size < offset.toNat + count.toNat
      case pos =>
        rw [if_pos hspan]
        exact hrefuses (cmdProgramFuse_badSpan hunlocked hspan)
      case neg =>
        rw [if_neg hspan]
        have hcount : count.toNat ≤ 50 := by omega
        have haccepted := record_accepted h.clearOut 0x70 (g.code :: offset :: count :: data)
        rw [hx, cmdProgramFuse_programs (s := s.clearOut.executing line 0x70 (g.code :: offset :: count :: data)) hunlocked hspan, padTo_padTo hcount] at haccepted
        exact congrArg Host.Outcome.next
          (settle_one haccepted (atRest_asRecord_programming (y := s.clearOut) rfl h.clearOut.rest h.free))
  case noGroup =>
    have hx := execCode_programFuse (room := roomAt (lineOf line))
      (s := s.clearOut.executing line 0x70 (x :: offset :: count :: data)) x offset count data
    exact congrArg Host.Outcome.next (refusedRecord_event h (hx.trans (cmdProgramFuse_noGroup (groupArg_eq_none hx'))))
  case lock =>
    have hcmd : cmdLockFuse g.code (s.clearOut.executing line 0x71 [g.code]) =
        accept ((s.clearOut.executing line 0x71 [g.code]).withFuses (s.fuses.lock g)) [g.code, yesNo (s.fuses.locked g)] := by
      rw [cmdLockFuse, groupArg_code]
      rfl
    exact congrArg Host.Outcome.next
      (quietRecord_event h ((execCode_lockFuse ..).trans hcmd) rfl ⟨rfl, rfl, rfl, rfl, rfl, rfl, rfl, rfl⟩)
  case noLock =>
    have hcmd : cmdLockFuse x (s.clearOut.executing line 0x71 [x]) = refuse (s.clearOut.executing line 0x71 [x]) .refusedRange [] := by
      rw [cmdLockFuse, groupArg_eq_none hx]
    exact congrArg Host.Outcome.next (refusedRecord_event h ((execCode_lockFuse ..).trans hcmd))
  case locked => cases g <;> exact ⟨rfl, fun h hne => by cases h <;> simp_all [Fuses.lock, Fuses.locked], fun h => by cases h <;> rfl⟩
  case completion =>
    intro took bytes back u
    have hplaced := settleOnce_places_afterProgramming (u := u) (c := 0x70) (r := acceptedReply
      ([job.group.code, byteOf job.offset, byteOf job.data.length, byteOf (unprogrammed job.data back)] ++ back))
      hrest hw hstage rfl ⟨rfl, rfl, rfl, rfl, rfl, rfl, rfl, rfl⟩
    refine reaches_of_step rfl (Eq.trans (congrArg settleOnce ?_) hplaced)
    exact completeFuses_programming (s := s.clearOut) failed hw hstage

end Sys2Proof.Machine
end

section
/-! SUPPORT. The acceptance of a soft reset and its effect (R80, R174 to R176). -/

namespace Sys2Proof.Machine

/-! ### The answers of the reads (R175) -/

/-- The answer a read's result gives. -/
def Read.answer (r : Read) (x : ReadResult) : Answer :=
  { access := .read, line := r.req.line, offset := r.req.offset, length := r.req.length,
    result := match x with
      | .ok bs _ => .ok bs
      | .err reason => .err reason }

theorem answerRead_answers (s : State) (r : Read) (x : ReadResult) : (s.answerRead r x).answers = s.answers ++ [r.answer x] := by
  unfold State.answerRead
  split
  case h_1 => simp [Read.answer]
  case h_2 => simp [Read.answer, State.recordRefusal]

theorem answerReads_answers (l : List Read) (s : State) :
    (l.foldl (fun s r => s.answerRead r (resetResult r)) s).answers = s.answers ++ l.map fun r => r.answer (resetResult r) := by
  induction l generalizing s with
  | nil => simp
  | cons r l ih => simp [ih, answerRead_answers]

theorem answerReads_port (l : List Read) (s : State) :
    ∃ x, (l.foldl (fun s r => s.answerRead r (resetResult r)) s).port = { s.port with lastRefusal := x } := by
  induction l generalizing s with
  | nil => exact ⟨s.port.lastRefusal, rfl⟩
  | cons r l ih =>
    obtain ⟨x, hx⟩ := answerRead_port s r (resetResult r)
    obtain ⟨y, hy⟩ := ih (s.answerRead r (resetResult r))
    exact ⟨y, by rw [List.foldl_cons, hy, hx]⟩

theorem answerAll_answers (s : State) : s.answerAll.answers = s.answers ++ s.port.reads.map fun r => r.answer (resetResult r) :=
  answerReads_answers s.port.reads (s.setReads [])

theorem answerAll_port (s : State) : ∃ x, s.answerAll.port = { s.port with reads := [], lastRefusal := x } :=
  answerReads_port s.port.reads (s.setReads [])

/-! ### The sequencer's part (R80) -/

theorem wakeReported_seq (s : State) : s.wakeReported.seq = s.seq := by
  rw [wakeReported_eq]
  rfl

/-- What a WAKE request leaves of the sequencer (R78). -/
theorem requestWake_seq (s : State) : s.requestWake.seq = { s.seq with
    powerReq := none,
    st := if s.seq.st = .asleep then (if s.wakeDelay = 0 then .idle else .waking (tickAfter s.now s.wakeDelay)) else s.seq.st } := by
  unfold State.requestWake
  by_cases hasleep : s.seq.st = .asleep
  case neg => simp only [if_neg hasleep, wakeReported_seq, State.setPowerReq, State.withSeq_seq]
  case pos =>
    simp only [if_pos hasleep]
    by_cases hdelay : s.wakeDelay = 0
    case pos => simp only [if_pos hdelay, wakeReported_seq]; rfl
    case neg => simp only [if_neg hdelay]; rfl

/-- A WAKE request issues WAKE in ASLEEP alone. -/
theorem requestWake_link (s : State) : s.requestWake.link = if s.seq.st = .asleep then s.link ++
    [{ fn := .wake, opcode := s.opcode .wake, addr := [], dummies := 0, data := [], reads := 0 }] else s.link := by
  unfold State.requestWake
  by_cases hasleep : s.seq.st = .asleep
  case neg =>
    simp only [if_neg hasleep, wakeReported_eq]
    rfl
  case pos =>
    simp only [if_pos hasleep]
    split_ifs
    · rw [wakeReported_eq]
      rfl
    · rfl

theorem requestWake_power {s : State} (h : s.power.st ≠ .waking) : s.requestWake.power = s.power := by
  have hreported {t : State} (ht : t.power = s.power) : t.wakeReported.power = s.power := by
    rw [State.wakeReported, ht, if_neg h, ht]
  unfold State.requestWake
  by_cases hasleep : s.seq.st = .asleep
  case neg =>
    rw [if_neg hasleep]
    exact hreported rfl
  case pos =>
    simp only [if_pos hasleep]
    split_ifs
    · exact hreported rfl
    · rfl

/-- What the acceptance of a soft reset leaves of the sequencer. -/
theorem resetSequencer_seq (s : State) : s.resetSequencer.seq =
    { s.seq with misses := [], fills := [], powerReq := none, share := 0, deferred := none, st := match s.seq.st with
      | .suspended op service => .suspended op (service.take 1)
      | .asleep => if s.wakeDelay = 0 then .idle else .waking (tickAfter s.now s.wakeDelay)
      | x => x } := by
  unfold State.resetSequencer
  dsimp only
  cases hst : s.seq.st with
  | asleep =>
    rw [requestWake_seq]
    simp only [State.withSeq_seq, if_true]
    rfl
  | _ => rfl

theorem resetSequencer_link (s : State) : s.resetSequencer.link = if s.seq.st = .asleep then s.link ++
    [{ fn := .wake, opcode := s.opcode .wake, addr := [], dummies := 0, data := [], reads := 0 }] else s.link := by
  unfold State.resetSequencer
  dsimp only
  split
  case h_1 op service hst => simp [hst]
  case h_2 hst =>
    rw [requestWake_link]
    simp [hst, State.opcode, State.profileByte]
  case h_3 hsuspended hasleep => rw [if_neg hasleep]; rfl

theorem resetSequencer_power {s : State} (h : s.power.st ≠ .waking) : s.resetSequencer.power = s.power := by
  unfold State.resetSequencer
  dsimp only
  split
  case h_2 => exact requestWake_power h
  all_goals rfl

/-! ### The acceptance (R175) -/

theorem acceptSoftReset_port (s : State) :
    ∃ x, s.acceptSoftReset.port = { s.port with lanesOpen := false, reads := [], lastRefusal := x } := by
  obtain ⟨x, hx⟩ := answerAll_port ((s.setLanes false).withControl { s.control with softReset := true })
  exact ⟨x, by simpa [State.acceptSoftReset] using hx⟩

theorem acceptSoftReset_answers (s : State) :
    s.acceptSoftReset.answers = s.answers ++ s.port.reads.map fun r => r.answer (resetResult r) := by
  simpa [State.acceptSoftReset] using answerAll_answers ((s.setLanes false).withControl { s.control with softReset := true })

theorem acceptSoftReset_seq (s : State) : s.acceptSoftReset.seq =
    { s.seq with misses := [], fills := [], powerReq := none, share := 0, deferred := none, st := match s.seq.st with
      | .suspended op service => .suspended op (service.take 1)
      | .asleep => if s.wakeDelay = 0 then .idle else .waking (tickAfter s.now s.wakeDelay)
      | x => x } := by
  simp [State.acceptSoftReset, resetSequencer_seq, State.wakeDelay, State.profileByte, State.now] <;> rfl

theorem acceptSoftReset_link (s : State) : s.acceptSoftReset.link = if s.seq.st = .asleep then s.link ++
    [{ fn := .wake, opcode := s.opcode .wake, addr := [], dummies := 0, data := [], reads := 0 }] else s.link := by
  simp [State.acceptSoftReset, resetSequencer_link, State.opcode, State.profileByte]

theorem acceptSoftReset_power {s : State} (h : s.power.st = .drain) :
    s.acceptSoftReset.power = { s.power with st := .run, drainExpiry := none } := by
  have hquiet : (((s.setLanes false).withControl { s.control with softReset := true }).answerAll).endDrainQuietly.power =
      { s.power with st := .run, drainExpiry := none } := by
    simp [State.endDrainQuietly, h]
  have hrun : (((s.setLanes false).withControl { s.control with softReset := true }).answerAll).endDrainQuietly.power.st ≠
      .waking := by simp [hquiet]
  exact (resetSequencer_power hrun).trans hquiet

/-- A soft reset accepted with the sequencer IDLE or STALLED takes effect in the event. -/
theorem acceptSoftReset_due {s : State} (h : s.seq.st = .idle ∨ s.seq.st = .stalled ∨ (s.seq.st = .asleep ∧ s.wakeDelay = 0)) :
    s.acceptSoftReset.softResetDue = true := by
  have hst : s.acceptSoftReset.seq.st = .idle ∨ s.acceptSoftReset.seq.st = .stalled := by
    rw [acceptSoftReset_seq]
    obtain h | h | ⟨h, hdelay⟩ := h
    case inl => simp [h]
    case inr.inl => simp [h]
    case inr.inr => simp [h, hdelay]
  simpa [State.softResetDue] using hst

theorem cmdSoftReset_accepted {s : State} {x : Byte} (h : x = 0x01 ∨ (x = 0x00 ∧ s.unwritten = false)) :
    cmdSoftReset x s = (s.awaitReset.acceptSoftReset, none) := by
  obtain rfl | ⟨rfl, hcalm⟩ := h
  case inl => rfl
  case inr => exact if_neg (Bool.eq_false_iff.mp hcalm)

/-- Settles O32. -/
theorem softResetIsAccepted : Obligations.SoftResetIsAccepted := by
  refine fun s line x h => ⟨fun hx => ?range, fun hx hunwritten => ?state, fun hx => ?accepted⟩
  case range =>
    have hcmd : cmdSoftReset x (s.clearOut.executing line 0x03 [x]) = refuse (s.clearOut.executing line 0x03 [x]) .refusedRange [] := by
      rw [cmdSoftReset, boolArg_eq, if_neg (by omega)]
    exact congrArg Host.Outcome.next (refusedRecord_event h ((execCode_softReset ..).trans hcmd))
  case state =>
    subst hx
    have hunwritten' : (s.clearOut.executing line 0x03 [0x00]).unwritten = true := hunwritten
    have hcmd : cmdSoftReset 0x00 (s.clearOut.executing line 0x03 [0x00]) =
        refuse (s.clearOut.executing line 0x03 [0x00]) .refusedState [] := if_pos hunwritten'
    exact congrArg Host.Outcome.next (refusedRecord_event h ((execCode_softReset ..).trans hcmd))
  case accepted =>
    intro a
    have haccepted : settleOnce (s.clearOut.presentRecord line 0x03 [x]) = some a := by
      refine (record_accepted h.clearOut 0x03 [x]).trans (congrArg some ?_)
      rw [execCode_softReset, cmdSoftReset_accepted (s := s.clearOut.executing line 0x03 [x]) hx]
      rfl
    have heffect (hdue : s.seq.st = .idle ∨ s.seq.st = .stalled ∨ (s.seq.st = .asleep ∧ s.wakeDelay = 0)) :
        Reaches (.softReset line x) s a.softResetEffect :=
      reaches_of_steps rfl haccepted (settleOnce_softReset (acceptSoftReset_due hdue))
    obtain ⟨refusal, hport⟩ := acceptSoftReset_port (s.clearOut.executing line 0x03 [x]).awaitReset
    have hcontrol := (s.clearOut.executing line 0x03 [x]).awaitReset.acceptSoftReset_control
    have hseq := acceptSoftReset_seq (s.clearOut.executing line 0x03 [x]).awaitReset
    refine ⟨congrArg Port.lanesOpen hport, congrArg Port.reads hport, congrArg Control.softReset hcontrol,
      congrArg Control.overlay hcontrol, congrArg Sequencer.misses hseq, congrArg Sequencer.fills hseq,
      congrArg Sequencer.powerReq hseq, congrArg Sequencer.deferred hseq, ?staging, ?rule, ?time, ?fuses, ?answers,
      congrArg Sequencer.st hseq, acceptSoftReset_link _, fun hst => acceptSoftReset_power hst,
      fun hst hdelay => heffect (.inr (.inr ⟨hst, hdelay⟩)), fun hst => heffect (hst.imp_right .inl),
      fun hidle hstalled => reaches_of_step rfl haccepted⟩
    case answers =>
      refine (acceptSoftReset_answers _).trans (List.map_congr_left fun r _ => ?_)
      obtain ⟨tag, req, decision, stage⟩ := r
      cases stage with
      | resolved x => cases x <;> rfl
      | _ => rfl
    all_goals simp [a]; rfl

end Sys2Proof.Machine
end

section
/-! SUPPORT. The effect of a soft reset (R176, Table 9-3). -/

namespace Sys2Proof.Machine

/-- The part after a soft reset that answers `a`: the answers and functions the event has given, the power state, and the
flags of the event beside FLASH_STALL (Table 9-3). -/
def State.afterSoftReset (s : State) (a : Answer) (answers : List Answer) (link : List Spi) (x : PowerState) (more : BitVec 32) :
    State :=
  { s with
    port := { s.port with reads := [], write := none, lastRefusal := none, lanesOpen := true },
    control := { s.control with overlay := none, softReset := false },
    rule := { s.rule with lastUrgent := none },
    capture := CaptureUnit.initial,
    staging := Staging.initial,
    seq := { Sequencer.initial with st := if s.seq.st = .stalled then .stalled else .idle },
    power := { st := x, policy := PowerPolicy.default, drainExpiry := none, lastDrain := none, pwrwarn := s.power.pwrwarn },
    time := { tick := s.time.tick, subTick := if s.time.timing.prescaler = 100 then s.time.subTick else 0,
              timing := TimingSettings.default },
    events := { flags := (if s.seq.st = .stalled then eventMask .flashStall else 0) ||| more, enables := 0x00023000 },
    answers := answers ++ [a],
    link := link }

section
variable {s : State} {w : WriteInProgress} {a : Answer} {answers : List Answer} {link : List Spi} {x : PowerState} {more : BitVec 32}

/-- Flags raised after the soft reset. -/
theorem afterSoftReset_raise (e : Event) : (s.afterSoftReset a answers link x more).raise e =
    s.afterSoftReset a answers link x (more ||| eventMask e) := by
  unfold State.raise
  rw [show (s.afterSoftReset a answers link x more).events.flags ||| eventMask e =
    (if s.seq.st = .stalled then eventMask .flashStall else 0) ||| (more ||| eventMask e) from BitVec.or_assoc ..]
  rfl

theorem closeAll_initial (cause : CloseCause) : Staging.initial.closeAll cause = Staging.initial := by
  cases cause <;> rfl

theorem afterSoftReset_enterEmergency : (s.afterSoftReset a answers link x more).enterEmergency =
    s.afterSoftReset a answers link .emergency more := by
  unfold State.enterEmergency
  rw [show (s.afterSoftReset a answers link x more).staging = Staging.initial from rfl, closeAll_initial]
  rfl

/-- The values of Table 9-3 with FLASH_STALL, before an assertion of PWRWARN is taken. -/
theorem softResetValues_stall (hw : s.port.write = some w) :
    (if s.answerControl.softResetValues.seq.st = .stalled then s.answerControl.softResetValues.raise .flashStall
      else s.answerControl.softResetValues) =
    s.afterSoftReset (writeAnswer w.req (.ok [])) s.answers s.link (if s.power.st = .unconfigured then .unconfigured else .run) 0 := by
  have hanswer : s.answerControl = (s.setWrite none).giveAnswer (writeAnswer w.req (.ok [])) := by rw [State.answerControl, hw]
  rw [hanswer]
  by_cases hstalled : s.seq.st = .stalled
  case pos =>
    have hst : ((s.setWrite none).giveAnswer (writeAnswer w.req (.ok []))).softResetValues.seq.st = .stalled := if_pos hstalled
    rw [if_pos hst, State.afterSoftReset, if_pos hstalled, if_pos hstalled]
    simp [State.softResetValues, State.raise, hstalled]
    rfl
  case neg =>
    have hst : ((s.setWrite none).giveAnswer (writeAnswer w.req (.ok []))).softResetValues.seq.st = .idle := if_neg hstalled
    rw [hst, if_neg nofun, State.afterSoftReset, if_neg hstalled, if_neg hstalled]
    simp [State.softResetValues, hstalled]
    exact ⟨rfl, rfl, rfl⟩

/-- The effect as a whole: with PWRWARN high the assertion of R148 is taken, or its warning raised (R154). -/
theorem softResetEffect_eq (hw : s.port.write = some w) : s.softResetEffect =
    s.afterSoftReset (writeAnswer w.req (.ok [])) s.answers s.link
      (if s.power.st = .unconfigured then .unconfigured else if s.power.pwrwarn = true then .emergency else .run)
      (if s.power.pwrwarn = true then eventMask .powerWarning else 0) := by
  unfold State.softResetEffect
  dsimp only
  rw [softResetValues_stall hw]
  by_cases hwarned : s.power.pwrwarn = true
  case neg =>
    rw [if_neg hwarned, if_neg hwarned]
    exact if_neg hwarned
  case pos =>
    rw [if_pos hwarned, if_pos hwarned]
    refine (if_pos hwarned).trans ?_
    by_cases hbare : s.power.st = .unconfigured
    case pos =>
      rw [if_pos hbare, if_pos hbare, takeAssertion_calm (.inl rfl), afterSoftReset_raise]
      exact congrArg _ (BitVec.zero_or ..)
    case neg =>
      rw [if_neg hbare, if_neg hbare, takeAssertion_active (.inl rfl), afterSoftReset_raise, afterSoftReset_enterEmergency]
      exact congrArg _ (BitVec.zero_or ..)

/-- The empty table meets the SAFE condition in the same event (R149). -/
theorem settleOnce_afterSoftReset_emergency : settleOnce (s.afterSoftReset a answers link .emergency more) =
    some (s.afterSoftReset a answers link .safe (more ||| eventMask .safeReached)) := by
  have hseq : (s.afterSoftReset a answers link .emergency more).seq.st = .stalled ∨
      (s.afterSoftReset a answers link .emergency more).seq.st = .idle := by
    by_cases hstalled : s.seq.st = .stalled
    case pos => exact .inl (if_pos hstalled)
    case neg => exact .inr (if_neg hstalled)
  have hreset : (s.afterSoftReset a answers link .emergency more).softResetDue = false := rfl
  have hrelease : (s.afterSoftReset a answers link .emergency more).canReleaseWrite = false := rfl
  have hhazard : (s.afterSoftReset a answers link .emergency more).canReleaseHazard = false := rfl
  have hspoiled : (s.afterSoftReset a answers link .emergency more).sleepSpoiled = false := rfl
  have hclaim : (s.afterSoftReset a answers link .emergency more).claimWaiting = false := rfl
  have hgrant : (s.afterSoftReset a answers link .emergency more).canGrant = false := by
    rw [State.canGrant, hclaim]
    simp [State.afterSoftReset, Sequencer.initial]
  have hdrain : (s.afterSoftReset a answers link .emergency more).drainDue = false := rfl
  have hsafe : (s.afterSoftReset a answers link .emergency more).safeDue = true := by
    have hflight : (s.afterSoftReset a answers link .emergency more).seq.st.inFlight = false := by
      obtain h | h := hseq <;> rw [h] <;> rfl
    have hheld : (s.afterSoftReset a answers link .emergency more).staging.entries.any Entry.holdsSafe = false := rfl
    rw [State.safeDue, State.safeCondition, hflight, hheld]
    rfl
  have hawake : (s.afterSoftReset a answers link .emergency more).seq.st ≠ .asleep := by
    obtain h | h := hseq <;> rw [h] <;> nofun
  simp only [settleOnce, hreset, hrelease, hhazard, hspoiled, hgrant, hdrain, hsafe, Bool.false_eq_true, if_false, if_true,
    enterSafe_awake hawake]
  exact congrArg some (afterSoftReset_raise (x := .safe) .safeReached)

end

/-- Settles O33. -/
theorem softResetTakesEffect : Obligations.SoftResetTakesEffect := by
  intro s w hdue hw after fresh
  have heffect : s.clearOut.softResetEffect = fresh
      (if s.power.st = .unconfigured then .unconfigured else if s.power.pwrwarn = true then .emergency else .run)
      (if s.power.pwrwarn = true then eventMask .powerWarning else 0) := softResetEffect_eq (s := s.clearOut) hw
  have hexec : exec .softResetTakesEffect s = .next (event (fun s => if s.softResetDue then s.softResetEffect else s) s) := rfl
  have hbody : (if s.clearOut.softResetDue then s.clearOut.softResetEffect else s.clearOut) = s.clearOut.softResetEffect :=
    if_pos hdue
  refine ⟨fun hcalm => ?calm, fun hwarned hbare => ?unconfigured, fun hwarned hbare => ?emergency, softResetEffect_eq hw⟩
  case calm =>
    refine reaches_of_event hexec (hbody.trans (heffect.trans ?_))
    rw [if_neg (Bool.eq_false_iff.mp hcalm), if_neg (Bool.eq_false_iff.mp hcalm)]
  case unconfigured =>
    refine reaches_of_event hexec (hbody.trans (heffect.trans ?_))
    rw [if_pos hbare, if_pos hwarned]
  case emergency =>
    rw [if_neg hbare, if_pos hwarned, if_pos hwarned] at heffect
    refine reaches_of_step hexec ((congrArg settleOnce (hbody.trans heffect)).trans ?_)
    exact settleOnce_afterSoftReset_emergency (s := s)

end Sys2Proof.Machine
end

section
/-! SUPPORT. Supply, RESET pin and start-up (R177 to R182). -/

namespace Sys2Proof.Machine

theorem profileValid_iff (p : List Byte) :
    let at0 (i : Nat) : Nat := (byteAt p i).toNat
    profileValid p = true ↔
      (1 ≤ at0 0 ∧ at0 0 ≤ 5) ∧ (at0 1 = 3 ∨ at0 1 = 4) ∧ at0 11 ≤ 4 ∧ at0 12 / 16 ≤ 1 ∧
      (at0 12 % 16 ≤ 7 ∧ at0 13 ≤ 7 ∧ at0 14 ≤ 7) ∧
      (at0 12 % 16 ≠ at0 13 ∧ at0 12 % 16 ≠ at0 14 ∧ at0 13 ≠ at0 14) := by
  intro at0
  have h3 : byteAt p 1 = 3#8 ↔ at0 1 = 3 := BitVec.toNat_eq
  have h4 : byteAt p 1 = 4#8 ↔ at0 1 = 4 := BitVec.toNat_eq
  simp only [profileValid, Bool.and_eq_true, decide_eq_true_eq, Bool.or_eq_true, beq_iff_eq]
  rw [show (3 : Byte) = 3#8 from rfl, show (4 : Byte) = 4#8 from rfl, h3, h4]
  constructor
  case mp =>
    rintro ⟨⟨⟨⟨⟨⟨⟨⟨⟨⟨hlow, hhigh⟩, hcode⟩, hdummy⟩, hready⟩, hsusp⟩, hfail⟩, hrs⟩, hrf⟩, hsf⟩, hvalue⟩
    exact ⟨⟨hlow, hhigh⟩, hcode, hdummy, hvalue, ⟨hready, hsusp, hfail⟩, hrs, hrf, hsf⟩
  case mpr =>
    rintro ⟨⟨hlow, hhigh⟩, hcode, hdummy, hvalue, ⟨hready, hsusp, hfail⟩, hrs, hrf, hsf⟩
    exact ⟨⟨⟨⟨⟨⟨⟨⟨⟨⟨hlow, hhigh⟩, hcode⟩, hdummy⟩, hready⟩, hsusp⟩, hfail⟩, hrs⟩, hrf⟩, hsf⟩, hvalue⟩

/-! ### Power-on values (R182) -/

theorem powerOnValues_clearOut (s : State) : s.clearOut.powerOnValues = s.blank := rfl

/-- In STARTING with the lanes closed and the table empty nothing is due. -/
theorem atRest_of_starting {x : State} (hlanes : x.port.lanesOpen = false) (hreads : x.port.reads = [])
    (hwrite : x.port.write = none) (hstart : x.power.st = .starting) (hsoft : x.control.softReset = false)
    (hclaims : x.claimWaiting = false) (hsleep : x.seq.powerReq = none) : x.atRest := by
  refine (atRest_iff x).mpr ⟨?_, ?_, ?_, ?_, ?_, ?_, ?_, ?_, ?_, ?_, ?_⟩
  · simp [State.softResetDue, hsoft]
  · simp [State.canReleaseWrite, hwrite]
  · simp [State.canReleaseHazard, hreads]
  · simp [State.sleepSpoiled, hstart]
  · simp [State.canGrant, hclaims, hsleep]
  · simp [State.canAnswer, hreads]
  · simp [State.drainDue, hstart]
  · simp [State.safeDue, hstart]
  · simp [State.canPlaceReply, hwrite]
  · simp [State.canAcceptRead, hlanes]
  · simp [State.canAcceptWrite, hlanes]

theorem blank_atRest (s : State) : s.blank.atRest := atRest_of_starting rfl rfl rfl rfl rfl rfl rfl

/-! ### Loss of the blocks' state (R84, R180) -/

theorem tearFuses_calm {s : State} (h : ∀ w job, s.port.write = some w → w.stage ≠ .fuseProgramming job) : s.tearFuses = s := by
  unfold State.tearFuses
  split
  case h_1 job _ hw => exact absurd rfl (h _ job hw)
  case h_2 => rfl

theorem tearFuses_programming {s : State} {w : WriteInProgress} {job : FuseJob} (hw : s.port.write = some w)
    (hstage : w.stage = .fuseProgramming job) : s.tearFuses =
      (s.withFuses (s.fuses.setGroup job.group (addBits (s.fuses.group job.group) job.offset (takenBits s.draws job.data)))).draw := by
  obtain ⟨req, accepted, hold, stage, decision⟩ := w
  subst hstage
  simp only [State.tearFuses, hw]

/-- The bits that took are those asked for under a mask. -/
theorem exists_takenBits (draws : Nat) (data : List Byte) :
    ∃ taken : List Byte, taken.length = data.length ∧ takenBits draws data = List.zipWith (· &&& ·) data taken := by
  refine ⟨data.mapIdx fun i _ => Config.fuseTaken draws i, by simp, List.ext_getElem (by simp [takenBits]) fun i h1 h2 => ?_⟩
  simp [takenBits]

theorem exec_powerLoss_eq {s t : State} (h : s.clearOut.tearFuses.powerOnValues = t) (hrest : State.atRest { t with powered := false }) :
    exec .powerLoss s = .next { t with powered := false } := by
  subst h
  exact congrArg Host.Outcome.next (event_of_atRest (body := State.losePower) hrest)

theorem exec_resetPinAssertion_eq {s t : State} (h : s.clearOut.tearFuses.powerOnValues = t)
    (hrest : State.atRest { t with resetHeld := true }) : exec .resetPinAssertion s = .next { t with resetHeld := true } := by
  subst h
  exact congrArg Host.Outcome.next (event_of_atRest (body := State.assertReset) hrest)

theorem losePower_atRest (s : State) : s.losePower.atRest := atRest_of_starting rfl rfl rfl rfl rfl rfl rfl

theorem exec_powerLoss (s : State) : exec .powerLoss s = .next s.clearOut.losePower :=
  congrArg Host.Outcome.next (event_of_atRest (body := State.losePower) (losePower_atRest _))

theorem tearFuses_outputs (s : State) : s.tearFuses.answers = s.answers ∧ s.tearFuses.link = s.link := by
  unfold State.tearFuses
  split <;> exact ⟨rfl, rfl⟩

theorem losePower_clearOut (s : State) : s.clearOut.losePower.clearOut = s.clearOut.losePower := by
  have hanswers : s.clearOut.losePower.answers = [] := by simp [State.losePower, State.powerOnValues, tearFuses_outputs]
  have hlink : s.clearOut.losePower.link = [] := by simp [State.losePower, State.powerOnValues, tearFuses_outputs]
  cases hx : s.clearOut.losePower
  rw [hx] at hanswers hlink
  cases hanswers
  cases hlink
  rfl

/-- Power-on of a powered part is a power cycle (log entry 12). -/
theorem powerOn_powered {s : State} (st : Byte) (hon : s.powered = true) :
    exec (.powerOn st) s = exec (.powerOn st) s.clearOut.losePower := by
  have hcycle : (if s.clearOut.powered then s.clearOut.losePower else s.clearOut).gainPower st =
      (if s.clearOut.losePower.clearOut.powered then s.clearOut.losePower.clearOut.losePower
        else s.clearOut.losePower.clearOut).gainPower st := by
    rw [losePower_clearOut, if_pos (show s.clearOut.powered = true from hon),
      if_neg (show ¬ s.clearOut.losePower.powered = true from nofun)]
  exact congrArg (fun x => Host.Outcome.next (settle x)) hcycle

/-! ### Start-up (R182, R183) -/

section
variable {s b : State} (h : s.powerOnValues = b) (st : Byte)
include h

theorem startUp_invalid (hinvalid : profileValid s.fuses.profile = false) :
    s.startUp st = ((b.fusesRead none).setPowerSt .unconfigured).setLanes true := by
  subst h
  have hread : s.powerOnValues.readFuses = s.powerOnValues.fusesRead none :=
    congrArg s.powerOnValues.fusesRead (if_neg (Bool.eq_false_iff.mp hinvalid))
  rw [State.startUp, hread]
  rfl

theorem startUp_valid (hvalid : profileValid s.fuses.profile = true) : s.startUp st =
    (((b.fusesRead (some s.fuses.profile)).issueBare .wake).setSeqSt
      (.waking (tickAfter 0 (byteAt s.fuses.profile 15).toNat))).wakeEndDue st := by
  subst h
  have hread : s.powerOnValues.readFuses = s.powerOnValues.fusesRead (some s.fuses.profile) :=
    congrArg s.powerOnValues.fusesRead (if_pos hvalid)
  rw [State.startUp, hread]
  rfl

end

theorem tickAfter_zero_ne {d : Nat} (hpos : d ≠ 0) (hlimit : d < 256) : tickAfter 0 d ≠ 0 := by
  intro h
  have := congrArg BitVec.toNat h
  simp [tickAfter] at this
  omega

/-- Start-up from the power-on values `b`. -/
structure StartsUp (c : Instr) (s b : State) (st : Byte) : Prop where
  step : ∃ x : State, ∃ body, exec c s = .next (event body s) ∧ body s.clearOut = x.startUp st ∧ x.powerOnValues = b
  fuses : b.fuses = s.fuses

theorem startsUp_powerOn {s : State} (st : Byte) (hoff : s.powered = false) (hfree : s.resetHeld = false) :
    StartsUp (.powerOn st) s { s.blank with powered := true } st := by
  refine ⟨⟨{ s.clearOut with powered := true }, _, rfl, ?_, rfl⟩, rfl⟩
  have hfree' : s.clearOut.resetHeld = false := hfree
  have hoff' : s.clearOut.powered = false := hoff
  simp only [hoff', Bool.false_eq_true, if_false, State.gainPower, hfree']

theorem startsUp_resetPinRelease {s : State} (st : Byte) (hon : s.powered = true) (hheld : s.resetHeld = true) :
    StartsUp (.resetPinRelease st) s { s.blank with resetHeld := false } st := by
  refine ⟨⟨{ s.clearOut with resetHeld := false }, _, rfl, ?_, rfl⟩, rfl⟩
  have hheld' : s.clearOut.resetHeld = true := hheld
  have hon' : s.clearOut.powered = true := hon
  simp only [State.releaseReset, hheld', hon', if_true]

/-- The functions and the state of a start-up with a valid profile, before the wake delay ends (R183). -/
def State.wakingWith (b : State) (p : List Byte) : State :=
  { (b.fusesRead (some p)).setSeqSt (.waking (tickAfter 0 (byteAt p 15).toNat)) with
    link := [{ fn := .wake, opcode := byteAt p 10, addr := [], dummies := 0, data := [], reads := 0 }] }

theorem issueWake_eq_wakingWith {b : State} {p : List Byte} (hlink : b.link = []) :
    ((b.fusesRead (some p)).issueBare .wake).setSeqSt (.waking (tickAfter 0 (byteAt p 15).toNat)) = b.wakingWith p := by
  cases b
  cases hlink
  rfl

section
variable {c : Instr} {s b : State} {st : Byte} (h : StartsUp c s b st)
include h

theorem StartsUp.invalid (hinvalid : profileValid s.fuses.profile = false) :
    Reaches c s (((b.fusesRead none).setPowerSt .unconfigured).setLanes true) := by
  obtain ⟨⟨x, body, hexec, hbody, hvalues⟩, hfuses⟩ := h
  have hx : x.fuses = s.fuses := (congrArg State.fuses hvalues).trans hfuses
  exact reaches_of_event hexec (hbody.trans (startUp_invalid hvalues st (hx ▸ hinvalid)))

theorem StartsUp.valid (hvalid : profileValid s.fuses.profile = true) (hlink : b.link = []) : ∃ body,
    exec c s = .next (event body s) ∧ body s.clearOut = (b.wakingWith s.fuses.profile).wakeEndDue st := by
  obtain ⟨⟨x, body, hexec, hbody, hvalues⟩, hfuses⟩ := h
  have hx : x.fuses = s.fuses := (congrArg State.fuses hvalues).trans hfuses
  refine ⟨body, hexec, hbody.trans ?_⟩
  rw [startUp_valid hvalues st (hx ▸ hvalid), hx]
  exact congrArg (State.wakeEndDue · st) (issueWake_eq_wakingWith hlink)

theorem StartsUp.delayed (hvalid : profileValid s.fuses.profile = true) (hlink : b.link = [])
    (hdelay : (byteAt s.fuses.profile 15).toNat ≠ 0) (htick : b.time.tick = 0) (hrest : (b.wakingWith s.fuses.profile).atRest) :
    exec c s = .next (b.wakingWith s.fuses.profile) := by
  obtain ⟨body, hexec, hbody⟩ := h.valid hvalid hlink
  have hlater : (b.wakingWith s.fuses.profile).seq.st ≠ .waking (b.wakingWith s.fuses.profile).now := by
    have hne := tickAfter_zero_ne hdelay (byteAt s.fuses.profile 15).isLt
    intro hst
    exact hne ((SeqState.waking.inj hst).trans htick)
  rw [wakeEndDue_notDue st hlater] at hbody
  rw [hexec, event_of_atRest (by rwa [hbody]), hbody]

theorem StartsUp.undelayed (hvalid : profileValid s.fuses.profile = true) (hlink : b.link = [])
    (hdelay : (byteAt s.fuses.profile 15).toNat = 0) (htick : b.time.tick = 0) (hstart : b.power.st = .starting) :
    Reaches c s ((b.wakingWith s.fuses.profile).firstStatus st) := by
  obtain ⟨body, hexec, hbody⟩ := h.valid hvalid hlink
  have hdue : (b.wakingWith s.fuses.profile).seq.st = .waking (b.wakingWith s.fuses.profile).now := by
    refine congrArg SeqState.waking ?_
    rw [hdelay]
    exact htick.symm
  rw [wakeEndDue_due st hdue, State.wakeEnded,
    if_pos (show (b.wakingWith s.fuses.profile).power.st = .starting from hstart)] at hbody
  exact reaches_of_event hexec hbody

end

theorem wakingWith_atRest {b : State} (p : List Byte) (hb : b.port.lanesOpen = false ∧ b.port.reads = [] ∧ b.port.write = none)
    (hstart : b.power.st = .starting) (hsoft : b.control.softReset = false) (hclaims : b.claimWaiting = false)
    (hsleep : b.seq.powerReq = none) : (b.wakingWith p).atRest :=
  atRest_of_starting hb.1 hb.2.1 hb.2.2 hstart hsoft hclaims hsleep

/-- Settles O34. -/
theorem startUp : Obligations.StartUp := by
  refine ⟨profileValid_iff, fun s st => ⟨fun hcalm => ?calm, fun w job hw hstage => ?torn, fun c b hc => ?starts,
    fun hoff hheld => ?held, fun hon t ht => ?cycle, fun hfree => ?released, fun hoff hheld => ?unpowered⟩, fun st => ?delivered⟩
  case calm =>
    have hvalues : s.clearOut.tearFuses.powerOnValues = s.blank := by rw [tearFuses_calm (s := s.clearOut) hcalm, powerOnValues_clearOut]
    exact ⟨exec_powerLoss_eq hvalues (blank_atRest s), exec_resetPinAssertion_eq hvalues (blank_atRest s)⟩
  case torn =>
    obtain ⟨taken, hlength, htaken⟩ := exists_takenBits s.draws job.data
    refine ⟨taken, hlength, ?_⟩
    intro torn
    have hvalues : s.clearOut.tearFuses.powerOnValues = { s.blank with fuses := torn, draws := s.draws + 1 } := by
      rw [tearFuses_programming (s := s.clearOut) hw hstage]
      simp only [torn, ← htaken]
      rfl
    exact ⟨exec_powerLoss_eq hvalues (blank_atRest s), exec_resetPinAssertion_eq hvalues (blank_atRest s)⟩
  case starts =>
    intro p delay waking woken
    have hstarts : StartsUp c s b st ∧ b.link = [] ∧ b.time.tick = 0 ∧ b.power.st = .starting ∧
        (b.wakingWith s.fuses.profile).atRest := by
      obtain ⟨rfl, hon, hheld, rfl⟩ | ⟨rfl, hon, hheld, rfl⟩ := hc
      case inl => exact ⟨startsUp_powerOn st hon hheld, rfl, rfl, rfl, wakingWith_atRest _ ⟨rfl, rfl, rfl⟩ rfl rfl rfl rfl⟩
      case inr => exact ⟨startsUp_resetPinRelease st hon hheld, rfl, rfl, rfl, wakingWith_atRest _ ⟨rfl, rfl, rfl⟩ rfl rfl rfl rfl⟩
    obtain ⟨h, hlink, htick, hstart, hrest⟩ := hstarts
    exact ⟨h.invalid, fun hvalid hdelay => h.delayed hvalid hlink hdelay htick hrest,
      fun hvalid hdelay => h.undelayed hvalid hlink hdelay htick hstart⟩
  case held =>
    have hbody : (if s.clearOut.powered then s.clearOut.losePower else s.clearOut).gainPower st = { s.blank with powered := true } := by
      rw [if_neg (show ¬ s.clearOut.powered = true from Bool.eq_false_iff.mp hoff)]
      exact if_pos hheld
    exact congrArg Host.Outcome.next ((event_of_atRest (hbody.symm ▸ blank_atRest s)).trans hbody)
  case cycle =>
    rw [exec_powerLoss s] at ht
    exact Host.Outcome.next.inj ht ▸ powerOn_powered st hon
  case released =>
    exact reaches_of_event rfl (if_neg (Bool.eq_false_iff.mp hfree))
  case unpowered =>
    exact reaches_of_event rfl ((if_pos hheld).trans (if_neg (Bool.eq_false_iff.mp hoff)))
  case delivered =>
    have hoff : exec (.powerOn st) { State.reset.blank with powered := false } = .next State.reset :=
      ((startsUp_powerOn (s := { State.reset.blank with powered := false }) st rfl rfl).invalid rfl).2 rfl
    exact ⟨(powerOn_powered (s := State.reset) st rfl).trans hoff, hoff⟩

end Sys2Proof.Machine
end

section
/-! SUPPORT. Read misses at the sequencer and the suspension decision (R62, R68, R71). -/

namespace Sys2Proof.Machine

/-! ### The suspension decision (R68) -/

section
variable {s : State} {op : FlashOp}

theorem maySuspend_iff : s.maySuspend op = true ↔
    s.seq.policy.suspendEnable = true ∧ s.power.st ≠ .emergency ∧ op.suspCount < s.seq.policy.budget op.step ∧
    s.control.softReset = false := by
  simp [State.maySuspend, and_assoc]

theorem spacingPassed_iff : s.spacingPassed op = true ↔
    ∀ t, op.lastResume = some t → s.seq.policy.resumeSpacing ≤ (s.now - t).toNat := by
  unfold State.spacingPassed
  cases hresume : op.lastResume with
  | none => simp
  | some t =>
    simp only [decide_eq_true_eq, Option.some.injEq, forall_eq']
    rfl

theorem suspend_eq (s : State) (op : FlashOp) : s.suspend op = (s.issueBare .suspend).withSeq
    { s.seq with st := .suspending { op with suspCount := op.suspCount + 1 } (s.now + s.time.timing.suspendLimit.setWidth 32),
                 deferred := none } := by
  have htick : tickAfter s.now s.time.timing.suspendLimit.toNat = s.now + s.time.timing.suspendLimit.setWidth 32 := by
    rw [tickAfter, BitVec.ofNat_toNat]
  rw [State.suspend, htick]

variable (hst : s.seq.st = .busy op)
include hst

theorem decideSuspension_denied (hmay : ¬ s.maySuspend op = true) : s.decideSuspension = s := by
  by_cases hmiss : s.seq.misses = []
  case pos => exact decideSuspension_idle (.inl hmiss)
  case neg =>
    obtain ⟨hdenied, -, -⟩ := decideSuspension_busy hst hmiss
    exact hdenied (Bool.eq_false_iff.mpr hmay)

variable (hmiss : s.seq.misses ≠ []) (hmay : s.maySuspend op = true)
include hmiss hmay

theorem decideSuspension_suspends (hpassed : s.spacingPassed op = true) : s.decideSuspension = s.suspend op := by
  obtain ⟨-, hsuspends, -⟩ := decideSuspension_busy hst hmiss
  exact hsuspends hmay hpassed

theorem decideSuspension_defers (hpassed : ¬ s.spacingPassed op = true) : s.decideSuspension =
    if s.seq.deferred = none then s.withSeq { s.seq with deferred := some (s.spacingTick op) } else s := by
  obtain ⟨-, -, hdefers⟩ := decideSuspension_busy hst hmiss
  exact hdefers hmay (Bool.eq_false_iff.mpr hpassed)

end

theorem spacingTick_of_lastResume {s : State} {op : FlashOp} {t : Tick} (h : op.lastResume = some t) :
    s.spacingTick op = tickAfter t s.seq.policy.resumeSpacing := by
  rw [State.spacingTick, h, Option.getD_some]

theorem missArrives_suspended {s : State} {op : FlashOp} {service : List Nat} (tag : Nat)
    (hst : s.seq.st = .suspended op service) : s.missArrives tag = s.setSeqSt (.suspended op (service ++ [tag])) := by
  rw [State.missArrives, hst]

theorem missArrives_queued {s : State} (tag : Nat) (hst : ∀ op service, s.seq.st ≠ .suspended op service) :
    s.missArrives tag = (s.withSeq { s.seq with misses := s.seq.misses ++ [tag] }).decideSuspension := by
  unfold State.missArrives
  split
  case h_1 op service h => exact absurd h (hst op service)
  case h_2 => rfl

/-- Settles O48. -/
theorem missesArriveInOrder : Obligations.MissesArriveInOrder := by
  intro s tag q
  refine ⟨fun op service => missArrives_suspended tag, fun op hst => ?busy, fun hsuspended hbusy => ?queued⟩
  case queued =>
    rw [missArrives_queued tag hsuspended]
    exact decideSuspension_idle (s := q) (.inr hbusy)
  case busy =>
    intro budget may passed
    have hqueued := missArrives_queued tag (s := s) (by rw [hst]; nofun)
    have hmisses : q.seq.misses ≠ [] := by simp [q]
    have hmay : q.maySuspend op = true ↔ may := maySuspend_iff
    have hpassed : q.spacingPassed op = true ↔ passed :=
      spacingPassed_iff
    refine ⟨fun h => ?denied, fun h hspace => ?suspends, fun t h hresume hspace => ?defers⟩
    case denied => exact hqueued.trans (decideSuspension_denied (s := q) hst (mt hmay.mp h))
    case suspends =>
      refine hqueued.trans ((decideSuspension_suspends (s := q) hst hmisses (hmay.mpr h) (hpassed.mpr hspace)).trans ?_)
      exact suspend_eq q op
    case defers =>
      have hspace' : ¬ passed := fun hall => hspace (hall t hresume)
      refine hqueued.trans ((decideSuspension_defers (s := q) hst hmisses (hmay.mpr h) (mt hpassed.mp hspace')).trans ?_)
      rw [spacingTick_of_lastResume hresume]
      rfl

end Sys2Proof.Machine
end

section
/-! SUPPORT. Status reads of an operation, the suspension and the resume (R60, R67, R68, R70 to R73). -/

namespace Sys2Proof.Machine

/-! ### The service list (R70, R71) -/

section
variable {s : State} {op : FlashOp}

theorem withSeq_noMisses (h : s.seq.misses = []) : s.withSeq { s.seq with misses := [] } = s := by
  obtain ⟨port, control, rule, capture, staging, ⟨st, misses, fills, powerReq, share, deferred, policy⟩⟩ := s
  cases h
  rfl

theorem issueMissRead_readOf {tag : Nat} {r : Read} (h : s.readOf tag = some r) :
    s.issueMissRead tag = s.issueRead r.req.line.toNat 64 := by
  rw [State.issueMissRead, h]
  rfl

theorem suspensionDone_noMiss (h : s.seq.misses = []) : s.suspensionDone op = s.resume op := by
  rw [State.suspensionDone, withSeq_noMisses h, h, State.serveNext]

theorem suspensionDone_serves {tag : Nat} {rest : List Nat} {r : Read} (h : s.seq.misses = tag :: rest)
    (hr : s.readOf tag = some r) : s.suspensionDone op = (s.issueRead r.req.line.toNat 64).withSeq
      { s.seq with st := .suspended op (tag :: rest), misses := [] } := by
  have hr' : (s.withSeq { s.seq with misses := [] }).readOf tag = some r := hr
  rw [State.suspensionDone, h, State.serveNext, issueMissRead_readOf hr']
  rfl

/-! ### Status reads (R60) -/

theorem pollStatus_suspended {st : Byte} {t : Tick} (h : s.seq.st = .suspending op t) (hshown : s.shown st = .suspended) :
    s.pollStatus st = s.issueStatus.suspensionDone op := by
  simp only [State.pollStatus, h, hshown]

theorem pollStatus_suspending_busy {st : Byte} {t : Tick} (h : s.seq.st = .suspending op t) (hshown : s.shown st = .busy) :
    s.pollStatus st = s.issueStatus := by
  simp only [State.pollStatus, h, hshown]

theorem pollStatus_resumed {st : Byte} (h : s.seq.st = .resuming op) (hshown : s.shown st = .busy) :
    s.pollStatus st = (s.issueStatus.setSeqSt (.busy op)).decideSuspension := by
  simp only [State.pollStatus, h, hshown]

theorem pollStatus_resuming_suspended {st : Byte} (h : s.seq.st = .resuming op) (hshown : s.shown st = .suspended) :
    s.pollStatus st = s.issueStatus := by
  simp only [State.pollStatus, h, hshown]

theorem completeRead_suspended {tag : Nat} {rest : List Nat} {bytes : List Byte} (h : s.seq.st = .suspended op (tag :: rest))
    (hlength : bytes.length = 64) : s.completeRead bytes = (s.missComplete tag bytes).serveNext op rest := by
  simp only [State.completeRead, h]
  exact if_pos hlength

theorem missComplete_gone {tag : Nat} {bytes : List Byte} (h : s.readOf tag = none) : s.missComplete tag bytes = s := by
  rw [State.missComplete, h]

theorem deferredDue_due (h : s.seq.deferred = some s.now) : s.deferredDue = s.clearDeferred.decideSuspension := by
  rw [State.deferredDue, h]
  exact if_pos (timerDue_self _)

theorem deferredDue_notDue (h : s.seq.deferred ≠ some s.now) : s.deferredDue = s := by
  refine if_neg fun hdue => h ?_
  cases hx : s.seq.deferred with
  | none => simp [timerDue, hx] at hdue
  | some t => simpa [timerDue, hx] using hdue

end

/-- Settles O54. -/
theorem suspensionServesTheMisses : Obligations.SuspensionServesTheMisses := by
  intro s st op u resumed budget may passed suspend defer busy removed
  refine ⟨fun t hst hshown => ⟨fun hmiss => ?resumes, fun tag rest r hmiss hr => ?serves⟩, fun t hst hshown => ?waits,
    fun tag r bytes hr hlength => ?readComplete, fun tag bytes hr hlength hst => ?dropped,
    fun hst hshown => ?busy, fun hst hshown => ?shown, fun hdeferred => ?due, fun hdeferred => ?early⟩
  case resumes =>
    exact reaches_of_event rfl ((pollStatus_suspended (s := s.clearOut) hst hshown).trans (suspensionDone_noMiss (s := u) hmiss))
  case serves =>
    exact reaches_of_event rfl ((pollStatus_suspended (s := s.clearOut) hst hshown).trans (suspensionDone_serves (s := u) hmiss hr))
  case waits => exact reaches_of_event rfl (pollStatus_suspending_busy (s := s.clearOut) hst hshown)
  case readComplete =>
    intro x
    refine ⟨fun hst => ?last, fun next rest q hst hq => ?next⟩
    all_goals refine reaches_of_event rfl ((completeRead_suspended (s := s.clearOut) hst hlength).trans ?_)
    case last =>
      have hnow : (s.clearOut.missComplete tag bytes).now = s.now := by simp [State.now]
      rw [State.serveNext, State.resume, hnow]
    case next => rw [State.serveNext, issueMissRead_readOf hq]
  case dropped =>
    refine reaches_of_event rfl ((completeRead_suspended (s := s.clearOut) hst hlength).trans ?_)
    rw [missComplete_gone (s := s.clearOut) hr]
    rfl
  case busy =>
    have hpoll : s.clearOut.pollStatus st = busy.decideSuspension := pollStatus_resumed (s := s.clearOut) hst hshown
    have hbusy : busy.seq.st = .busy op := rfl
    have hmay : busy.maySuspend op = true ↔ may := maySuspend_iff
    have hpassed : busy.spacingPassed op = true ↔ passed := spacingPassed_iff
    refine ⟨fun hmiss => reaches_of_event rfl (hpoll.trans (decideSuspension_idle (s := busy) (.inl hmiss))),
      fun _ hnot => reaches_of_event rfl (hpoll.trans (decideSuspension_denied hbusy (mt hmay.mp hnot))),
      fun hmiss hyes hspace => reaches_of_event rfl (hpoll.trans ((decideSuspension_suspends hbusy hmiss (hmay.mpr hyes)
        (hpassed.mpr hspace)).trans (suspend_eq busy op))), fun t hmiss hyes hresume hspace => reaches_of_event rfl (hpoll.trans ?_)⟩
    have hspace' : ¬ passed := fun hall => hspace (hall t hresume)
    rw [decideSuspension_defers hbusy hmiss (hmay.mpr hyes) (mt hpassed.mp hspace'), spacingTick_of_lastResume hresume]
    rfl
  case shown => exact reaches_of_event rfl (pollStatus_resuming_suspended (s := s.clearOut) hst hshown)
  case due =>
    have hdue : s.clearOut.deferredDue = removed.decideSuspension := deferredDue_due (s := s.clearOut) hdeferred
    have hmay : removed.maySuspend op = true ↔ may := maySuspend_iff
    have hpassed : removed.spacingPassed op = true ↔ passed := spacingPassed_iff
    refine ⟨fun hidle => reaches_of_event rfl (hdue.trans ?idle), fun hbusy hmiss =>
      ⟨fun hnot => reaches_of_event rfl (hdue.trans (decideSuspension_denied (s := removed) hbusy (mt hmay.mp hnot))),
      fun hyes hspace => reaches_of_event rfl (hdue.trans ((decideSuspension_suspends (s := removed) hbusy hmiss (hmay.mpr hyes)
        (hpassed.mpr hspace)).trans (suspend_eq removed op))), fun t hyes hresume hspace => reaches_of_event rfl (hdue.trans ?defers)⟩⟩
    case idle =>
      exact decideSuspension_idle (s := removed) hidle
    case defers =>
      have hspace' : ¬ passed := fun hall => hspace (hall t hresume)
      rw [decideSuspension_defers (s := removed) hbusy hmiss (hmay.mpr hyes) (mt hpassed.mp hspace'),
        spacingTick_of_lastResume hresume]
      rfl
  case early => exact reaches_of_event rfl (deferredDue_notDue (s := s.clearOut) hdeferred)

end Sys2Proof.Machine
end

section
/-! SUPPORT. The completions of an operation and of the READs of fills, misses and verifies (R44 to R52, R59, R66, R67, R91). -/

namespace Sys2Proof.Machine

/-! ### Status bytes (R59) -/

section
variable {s : State} {st : Byte}

/-- A status byte shows ready when its ready bit has the ready value of the profile. -/
def State.readyShown (s : State) (st : Byte) : Prop :=
  st.getLsbD ((s.profileByte 12).toNat % 16) = decide ((s.profileByte 12).toNat / 16 = 1)

theorem shown_busy (h : ¬ s.readyShown st) : s.shown st = .busy := if_neg h

theorem shown_suspended (h : s.readyShown st) (hbit : st.getLsbD (s.profileByte 13).toNat = true) : s.shown st = .suspended :=
  (if_pos h).trans (if_pos hbit)

theorem shown_ready (h : s.readyShown st) (hbit : st.getLsbD (s.profileByte 13).toNat = false) : s.shown st = .ready :=
  (if_pos h).trans (if_neg (Bool.eq_false_iff.mp hbit))

theorem readyShown_iff (hvalue : (s.profileByte 12).toNat / 16 ≤ 1) : s.readyShown st ↔
    (if st.getLsbD ((s.profileByte 12).toNat % 16) = true then 1 else 0) = (s.profileByte 12).toNat / 16 := by
  unfold State.readyShown
  generalize st.getLsbD ((s.profileByte 12).toNat % 16) = b
  generalize (s.profileByte 12).toNat / 16 = v at hvalue ⊢
  interval_cases v <;> cases b <;> simp

end

/-! ### The report of a step (R44, R45, R47, R57) -/

section
variable {s : State} {op : OpStep} {i : Nat} {d : Sector} {c : CloseCause} {p : Progress}

theorem stepReported_softReset {fail : Bool} (h : s.control.softReset = true) : s.stepReported op fail = s := if_pos h

variable (h : s.control.softReset = false) (hi : s.staging.committingIndex = some i) (he : s.staging.entry i = .committing d c p)
include h hi he

theorem stepReported_succeeds : s.stepReported op false =
    s.withStaging (s.staging.setEntry i (stepSucceeded s.now s.seq.policy.verifyEnable d c p op)) := by
  simp only [State.stepReported, h, hi, he, Bool.false_eq_true, if_false]

theorem stepReported_retries (hfirst : p.attempts = 1) : s.stepReported op true =
    (s.withStaging (s.staging.setEntry i (.committing d c { p with step := op.commitStep, attempts := 2 }))).countRetry := by
  simp only [State.stepReported, h, hi, he, hfirst, Bool.false_eq_true, if_false, if_true, State.retryStep]

theorem stepReported_faults (hsecond : p.attempts ≠ 1) : s.stepReported op true =
    (s.withStaging (s.staging.setEntry i (faultedEntry s.now d (stepFault op).1 (stepFault op).2))).raise .mediaFault := by
  simp only [State.stepReported, h, hi, he, hsecond, Bool.false_eq_true, if_false, if_true, State.faultCommit]

end

/-- The entry after a successful ERASE: the first listed page is programmed, or the commit is complete. -/
theorem stepSucceeded_erase (now : Tick) (verify : Bool) (d : Sector) (c : CloseCause) (p : Progress) :
    stepSucceeded now verify d c p .erase = match p.pages with
      | [] => committedEntry now d
      | n :: rest => .committing d c { p with pages := n :: rest, step := .program n, attempts := 1 } := by
  obtain ⟨plan, pages, step, attempts⟩ := p
  cases pages <;> rfl

theorem pollStatus_ready {s : State} {st : Byte} {op : FlashOp}
    (hst : s.seq.st = .busy op ∨ (∃ t, s.seq.st = .suspending op t) ∨ s.seq.st = .resuming op) (hshown : s.shown st = .ready) :
    s.pollStatus st = s.issueStatus.endOperation.stepReported op.step (s.failed st) := by
  obtain h | ⟨t, h⟩ | h := hst <;> simp only [State.pollStatus, h, hshown, State.completeOperation]

theorem pollStatus_busy_notReady {s : State} {st : Byte} {op : FlashOp} (hst : s.seq.st = .busy op) (hshown : s.shown st ≠ .ready) :
    s.pollStatus st = s.issueStatus := by
  cases h : s.shown st with
  | ready => exact absurd h hshown
  | _ => simp only [State.pollStatus, hst, h]

theorem softResetDue_of_idle {s : State} (h : s.control.softReset = true) (hst : s.seq.st = .idle) : s.softResetDue = true := by
  simp [State.softResetDue, h, hst]

/-- Settles O53. -/
theorem operationsComplete : Obligations.OperationsComplete := by
  refine ⟨fun s st => ?decode, fun s st op hst => ?completes⟩
  case decode =>
    intro p bit ready hvalue
    have hready : s.readyShown st ↔ ready := readyShown_iff hvalue
    exact ⟨fun hnot => shown_busy (mt hready.mp hnot), fun h hbit => shown_suspended (hready.mpr h) hbit,
      fun h hbit => shown_ready (hready.mpr h) hbit, rfl⟩
  case completes =>
    intro c u v
    have hpoll (hshown : s.shown st = .ready) : s.clearOut.pollStatus st = v.stepReported op.step (s.failed st) :=
      pollStatus_ready (s := s.clearOut) hst hshown
    refine ⟨fun hsoft hshown => ?reset, fun i d cause p hsoft hshown hi he => ?entry,
      fun hbusy hshown => reaches_of_event rfl (pollStatus_busy_notReady (s := s.clearOut) hbusy hshown)⟩
    case reset =>
      refine reaches_of_step rfl ((congrArg settleOnce ?_).trans (settleOnce_softReset (softResetDue_of_idle (s := v) hsoft rfl)))
      exact (hpoll hshown).trans (stepReported_softReset (s := v) hsoft)
    case entry =>
      intro set done next
      have hstep {x : State} (h : v.stepReported op.step (s.failed st) = x) : Reaches c s x :=
        reaches_of_event rfl ((hpoll hshown).trans h)
      have hsucceeds (hfailed : s.failed st = false) : v.stepReported op.step (s.failed st) =
          set (stepSucceeded s.now s.seq.policy.verifyEnable d cause p op.step) := by
        rw [hfailed]
        exact stepReported_succeeds (s := v) hsoft hi he
      have hretries (hfailed : s.failed st = true) (hfirst : p.attempts = 1) : v.stepReported op.step (s.failed st) =
          (set (.committing d cause { p with step := op.step.commitStep, attempts := 2 })).countRetry := by
        rw [hfailed]
        exact stepReported_retries (s := v) hsoft hi he hfirst
      have hfaults (hfailed : s.failed st = true) (hsecond : p.attempts ≠ 1) : v.stepReported op.step (s.failed st) =
          (set (faultedEntry s.now d (stepFault op.step).1 (stepFault op.step).2)).raise .mediaFault := by
        rw [hfailed]
        exact stepReported_faults (s := v) hsoft hi he hsecond
      refine ⟨fun hfailed hop => hstep ((hsucceeds hfailed).trans ?erased),
        fun n hfailed hop hverify => hstep ((hsucceeds hfailed).trans ?programmed),
        fun n hfailed hop hverify => hstep ((hsucceeds hfailed).trans ?unverified),
        fun hfailed hfirst hop => hstep ((hretries hfailed hfirst).trans (by rw [hop]; rfl)),
        fun n hfailed hfirst hop => hstep ((hretries hfailed hfirst).trans (by rw [hop]; rfl)),
        fun hfailed hsecond hop => hstep ((hfaults hfailed hsecond).trans (by rw [hop]; rfl)),
        fun n hfailed hsecond hop => hstep ((hfaults hfailed hsecond).trans (by rw [hop]; rfl))⟩
      case erased =>
        rw [hop, stepSucceeded_erase]
        rfl
      case programmed => rw [hop, hverify]; rfl
      case unverified => rw [hop, hverify]; rfl

/-! ### The verify read (R46, R48, R49) -/

theorem countRetry_below {s : State} (h : s.staging.retry < 65535) : s.countRetry =
    if s.staging.retry = 32767 then (s.withStaging { s.staging with retry := s.staging.retry + 1 }).raise .retryHalf
    else s.withStaging { s.staging with retry := s.staging.retry + 1 } := by
  simp only [State.countRetry, if_pos h, State.withStaging_staging, Nat.reduceEqDiff]

theorem countRetry_saturated {s : State} (h : 65535 ≤ s.staging.retry) : s.countRetry = s := if_neg (Nat.not_lt.mpr h)

theorem countRetry_retry {s : State} (h : s.staging.retry < 65535) : s.countRetry.staging.retry = s.staging.retry + 1 := by
  rw [countRetry_below h]
  split_ifs <;> rfl

theorem countRetry_flags (s : State) : s.countRetry.events.flags =
    if s.staging.retry = 32767 then s.events.flags ||| eventMask .retryHalf else s.events.flags := by
  by_cases h : s.staging.retry < 65535
  case pos =>
    rw [countRetry_below h]
    split_ifs <;> rfl
  case neg => rw [countRetry_saturated (Nat.not_lt.mp h), if_neg (by omega)]

section
variable {s : State} {page i : Nat} {bytes : List Byte} {d : Sector} {c : CloseCause} {p : Progress}

theorem verifyReported_softReset (h : s.control.softReset = true) : s.verifyReported page bytes = s := if_pos h

theorem completeRead_verify (hst : s.seq.st = .reading (.verify page)) (hlength : bytes.length = 256) :
    s.completeRead bytes = (s.setSeqSt .idle).verifyReported page bytes := by
  simp only [State.completeRead, hst]
  exact if_pos hlength

variable (h : s.control.softReset = false) (hi : s.staging.committingIndex = some i) (he : s.staging.entry i = .committing d c p)
include h hi he

theorem verifyReported_same (hsame : bytes = pageBytesOf d.work page) : s.verifyReported page bytes =
    s.withStaging (s.staging.setEntry i (nextPage s.now d c p page)) := by
  simp only [State.verifyReported, h, hi, he, if_pos hsame, Bool.false_eq_true, if_false]

theorem verifyReported_retries (hdiffers : bytes ≠ pageBytesOf d.work page) (hfirst : p.attempts = 1) :
    s.verifyReported page bytes =
      (s.withStaging (s.staging.setEntry i (.committing d c { p with step := .program page, attempts := 2 }))).countRetry := by
  simp only [State.verifyReported, h, hi, he, if_neg hdiffers, if_pos hfirst, Bool.false_eq_true, if_false, State.retryStep]

theorem verifyReported_faults (hdiffers : bytes ≠ pageBytesOf d.work page) (hsecond : p.attempts ≠ 1) :
    s.verifyReported page bytes =
      (s.withStaging (s.staging.setEntry i (faultedEntry s.now d .verifyMismatch (some page)))).raise .mediaFault := by
  simp only [State.verifyReported, h, hi, he, if_neg hdiffers, if_neg hsecond, Bool.false_eq_true, if_false, State.faultCommit]

end

/-- Settles O52. -/
theorem verifyReadCompletes : Obligations.VerifyReadCompletes := by
  refine ⟨fun s page bytes hlength hst hsoft => ?reset, fun s page i bytes d cause p hlength hst hsoft hi he => ?entry⟩
  case reset =>
    refine reaches_of_step rfl ((congrArg settleOnce ?_).trans
      (settleOnce_softReset (softResetDue_of_idle (s := s.clearOut.setSeqSt .idle) hsoft rfl)))
    exact (completeRead_verify (s := s.clearOut) hst hlength).trans
      (verifyReported_softReset (s := s.clearOut.setSeqSt .idle) hsoft)
  case entry =>
    intro u c set same
    have hstep {x : State} (h : u.verifyReported page bytes = x) : Reaches c s x :=
      reaches_of_event rfl ((completeRead_verify (s := s.clearOut) hst hlength).trans h)
    have hnext (hsame : same) : u.verifyReported page bytes = set (nextPage s.now d cause p page) :=
      verifyReported_same (s := u) hsoft hi he hsame
    refine ⟨fun hsame hpages => hstep ((hnext hsame).trans ?_), fun n rest hsame hpages => hstep ((hnext hsame).trans ?_),
      fun hdiffers hfirst => hstep (verifyReported_retries (s := u) hsoft hi he hdiffers hfirst),
      fun hdiffers hsecond => hstep (verifyReported_faults (s := u) hsoft hi he hdiffers hsecond),
      fun t => ⟨countRetry_retry, countRetry_saturated, countRetry_flags t⟩⟩
    · rw [nextPage, hpages]; rfl
    · rw [nextPage, hpages]

end Sys2Proof.Machine
end

section
/-! SUPPORT. The READs of misses and fills complete (R23, R25, R26, R35, R66, R71, R91). -/

namespace Sys2Proof.Machine

/-! ### A miss's READ (R66, R91) -/

section
variable {s : State} {tag : Nat} {r : Read} {bytes : List Byte}

theorem completeRead_miss (hst : s.seq.st = .reading (.miss tag)) (hlength : bytes.length = 64) :
    s.completeRead bytes = (s.setSeqSt .idle).missComplete tag bytes := by
  simp only [State.completeRead, hst]
  exact if_pos hlength

theorem missComplete_hazard (hr : s.readOf tag = some r) (hhazard : s.hazard r.req.line = true) :
    s.missComplete tag bytes = s.setStage tag .waitingHazard := by
  simp only [State.missComplete, hr, if_pos hhazard]

theorem missComplete_overlay {bs : List Byte} (hr : s.readOf tag = some r) (hhazard : s.hazard r.req.line = false)
    (ho : s.overlayBytes r.req = some bs) : s.missComplete tag bytes = s.setStage tag (.resolved (.ok bs .overlay)) := by
  simp only [State.missComplete, hr, hhazard, ho, Bool.false_eq_true, if_false]

theorem missComplete_entry (hr : s.readOf tag = some r) (hhazard : s.hazard r.req.line = false)
    (ho : s.overlayBytes r.req = none) : s.missComplete tag bytes =
      s.resolveEntry tag r.req (s.setStage tag (.resolved (.ok ((bytes.drop r.req.offset).take r.req.length) .flash))) := by
  simp only [State.missComplete, hr, hhazard, ho, Bool.false_eq_true, if_false]

end

section
variable {s x : State} {tag i : Nat} {req : ReadReq} {d : Sector}

theorem resolveEntry_none (hi : s.staging.find (sectorOf req.line) = none) : s.resolveEntry tag req x = x := by
  rw [State.resolveEntry, hi]

theorem resolveEntry_filling {f : Filling} (hi : s.staging.find (sectorOf req.line) = some i) (he : s.staging.entry i = .filling d f) :
    s.resolveEntry tag req x = s.setStage tag .waitingFill := by
  simp only [State.resolveEntry, hi, he]

theorem resolveEntry_hit (hi : s.staging.find (sectorOf req.line) = some i) (hd : (s.staging.entry i).data? = some d)
    (hf : (s.staging.entry i).isFilling = false) : s.resolveEntry tag req x = s.hitRead tag i d req := by
  cases he : s.staging.entry i with
  | free => simp [he, Entry.data?] at hd
  | filling => simp [he, Entry.isFilling] at hf
  | _ =>
    simp only [he, Entry.data?, Option.some.injEq] at hd
    simp only [State.resolveEntry, hi, he, hd]

end

/-- Settles O50. -/
theorem missReadCompletes : Obligations.MissReadCompletes := by
  refine ⟨fun s tag bytes hsoft hr hlength hst => ?reset, fun s tag r bytes hr hlength hst => ?served⟩
  case reset =>
    refine reaches_of_step rfl ((congrArg settleOnce ?_).trans
      (settleOnce_softReset (softResetDue_of_idle (s := s.clearOut.setSeqSt .idle) hsoft rfl)))
    exact (completeRead_miss (s := s.clearOut) hst hlength).trans (missComplete_gone (s := s.clearOut.setSeqSt .idle) hr)
  case served =>
    intro u c
    have hr' : u.readOf tag = some r := hr
    have hstep {x : State} (h : u.missComplete tag bytes = x) : Reaches c s x :=
      reaches_of_event rfl ((completeRead_miss (s := s.clearOut) hst hlength).trans h)
    exact ⟨fun hhazard => hstep (missComplete_hazard hr' hhazard), fun hhazard =>
      ⟨fun bs ho => hstep (missComplete_overlay hr' hhazard ho),
      fun ho hnone => hstep ((missComplete_entry hr' hhazard ho).trans (resolveEntry_none hnone)),
      fun i d f ho hi he => hstep ((missComplete_entry hr' hhazard ho).trans (resolveEntry_filling hi he)),
      fun i d ho hi hd hf => hstep ((missComplete_entry hr' hhazard ho).trans (resolveEntry_hit hi hd hf))⟩⟩

/-! ### A fill page (R23, R25, R26) -/

section
variable {s : State} {n page i : Nat} {bytes : List Byte} {d : Sector} {f : Filling}

theorem completeRead_fillPage (hst : s.seq.st = .reading (.fillPage n page)) (hlength : bytes.length = 256) :
    s.completeRead bytes = (s.setSeqSt .idle).fillReported n page bytes := by
  simp only [State.completeRead, hst]
  exact if_pos hlength

theorem fillReported_softReset (h : s.control.softReset = true) : s.fillReported n page bytes = s := if_pos h

theorem fillReported_gone (hi : s.staging.find n = none) : s.fillReported n page bytes = s := by
  unfold State.fillReported
  rw [hi]
  split_ifs <;> rfl

/-- A fill page stored in the base image of a FILLING entry (R23). -/
def State.pageStored (s : State) (i page : Nat) (bytes : List Byte) (d : Sector) (f : Filling) : State :=
  s.withStaging (s.staging.setEntry i (.filling { d with base := imgWriteBytes d.base (page * 256) bytes } f))

variable (h : s.control.softReset = false) (hi : s.staging.find n = some i) (he : s.staging.entry i = .filling d f)
include h hi he

theorem fillReported_page (hpage : page ≠ 15) : s.fillReported n page bytes = s.pageStored i page bytes d f := by
  have hlast : isLastPage page = false := by simpa [isLastPage, Config.sectorPages] using hpage
  simp only [State.fillReported, h, hi, he, hlast, Bool.false_eq_true, if_false]
  rfl

theorem fillReported_last (hpage : page = 15) : s.fillReported n page bytes = (s.pageStored i page bytes d f).completeFill i := by
  have hlast : isLastPage page = true := by simp [isLastPage, Config.sectorPages, hpage]
  simp only [State.fillReported, h, hi, he, hlast, Bool.false_eq_true, if_false, if_true]
  rfl

end

theorem lt_of_find {g : Staging} {n i : Nat} (hi : g.find n = some i) : i < g.entries.length := by
  rw [Staging.find, List.findIdx?_eq_some_iff_getElem] at hi
  obtain ⟨hlt, -⟩ := hi
  exact hlt

theorem closeFilled_eq {g : Staging} {i : Nat} {d : Sector} {f : Filling} {t : Timers} (he : g.entry i = .opened d t) :
    g.closeFilled f i = match f.closeOnFill with
      | some cause => g.close cause i
      | none =>
        if f.agePending = true ∧ hasDirty d = true then g.close .age i
        else if f.idlePending = true then g.close .idle i
        else g := by
  unfold Staging.closeFilled
  cases f.closeOnFill with
  | some cause => rfl
  | none => simp only [Staging.takePending, he, Entry.unwritten, Bool.and_eq_true]

theorem completeFill_eq {s : State} {i : Nat} {d : Sector} {f : Filling} (he : s.staging.entry i = .filling d f) :
    let d2 : Sector := { d with work := filledWork d f.written }
    let g := (s.staging.setEntry i (filledEntry d f)).closeFilled f i
    let waited := s.port.reads.filter (fun r => decide (r.stage = .waitingFill) && sectorOf r.req.line == d.number)
    s.completeFill i = waited.foldl
      (fun x r => x.setStage r.tag (.resolved (.ok (imgSpan d2.work (sectorOffset r.req.line r.req.offset) r.req.length) (.entry i))))
      (s.withStaging (if waited = [] then g else g.touch s.now i)) := by
  intro d2 g waited
  have hserved := serveFilled_eq (s.withStaging g) i d2
  have hfilled : s.completeFill i = (s.withStaging g).serveFilled i d2 := by
    simp only [State.completeFill, he]
    rfl
  have htouched : (if waited = [] then s.withStaging g else (s.withStaging g).withStaging (g.touch s.now i)) =
      s.withStaging (if waited = [] then g else g.touch s.now i) := by split_ifs <;> rfl
  exact hfilled.trans (hserved.trans (congrArg (fun y => waited.foldl _ y) htouched))

/-- Settles O51. -/
theorem fillReadCompletes : Obligations.FillReadCompletes := by
  intro s n page bytes hlength hst u c
  have hstep {x : State} (h : u.fillReported n page bytes = x) : Reaches c s x :=
    reaches_of_event rfl ((completeRead_fillPage (s := s.clearOut) hst hlength).trans h)
  refine ⟨fun hsoft => ?reset, fun hnone => hstep (fillReported_gone hnone), fun i d f hsoft hi he => ?stored⟩
  case reset =>
    refine reaches_of_step rfl ((congrArg settleOnce ?_).trans (settleOnce_softReset (softResetDue_of_idle (s := u) hsoft rfl)))
    exact (completeRead_fillPage (s := s.clearOut) hst hlength).trans (fillReported_softReset (s := u) hsoft)
  case stored =>
    intro d1
    refine ⟨fun hpage => hstep (fillReported_page (s := u) hsoft hi he hpage), fun hpage => ?last⟩
    intro d2
    refine ⟨fun k hbase hwritten => read_filledWork k hbase hwritten, ?_⟩
    intro g g' waited
    have hlt := lt_of_find hi
    have hentry : (u.pageStored i page bytes d f).staging.entry i = .filling d1 f := Staging.entry_setEntry_self _ hlt
    have hopened : g.entry i = .opened d2 { f.timers with age := if hasDirty d2 then f.timers.age else none } :=
      Staging.entry_setEntry_self _ hlt
    have hg : (u.pageStored i page bytes d f).staging.setEntry i (filledEntry d1 f) = g := by
      simp only [State.pageStored, State.withStaging_staging, Staging.setEntry, List.set_set]
      rfl
    have hg' : g.closeFilled f i = g' := closeFilled_eq hopened
    refine hstep ((fillReported_last (s := u) hsoft hi he hpage).trans ((completeFill_eq hentry).trans ?_))
    rw [hg, hg']
    rfl

end Sys2Proof.Machine
end

section
/-! SUPPORT. The functions on the link (R58, Table 3-1) and the grants of the sequencer (R41, R43, R63 to R65, R77). -/

namespace Sys2Proof.Machine

/-! ### Functions on the link (R58) -/

/-- Functions put on the link, in order. -/
def State.send (s : State) (l : List Spi) : State := { s with link := s.link ++ l }

theorem issue_issue (s : State) (x y : Spi) : (s.issue x).issue y = s.send [x, y] :=
  congrArg (fun l => { s with link := l }) (List.append_assoc s.link [x] [y])

theorem addressBytes_eq (s : State) (a : Nat) : s.addressBytes a =
    (if byteAt (s.profile.getD []) 1 = 4 then [BitVec.ofNat 8 (a / 16777216)] else []) ++
      [BitVec.ofNat 8 (a / 65536), BitVec.ofNat 8 (a / 256), BitVec.ofNat 8 a] := by
  unfold State.addressBytes State.profileByte
  split_ifs <;> rfl

/-! ### The next grant (R63, R65) -/

section
variable {s : State}

theorem commitClaim_eq (h : s.control.softReset = false) : s.commitClaim = s.staging.hasClaim := by
  simp [State.commitClaim, h]

/-- A commit claim that has waited for the commit share's number of grants. -/
def State.commitTurn (s : State) : Prop := s.staging.hasClaim = true ∧ s.seq.policy.commitShare ≤ s.seq.share

theorem commitTurn_iff (h : s.control.softReset = false) :
    (s.commitClaim && decide (s.seq.policy.commitShare ≤ s.seq.share)) = true ↔ s.commitTurn := by
  simp [commitClaim_eq h, State.commitTurn]

theorem grantNext_miss {tag : Nat} {rest : List Nat} (h : s.control.softReset = false) (hturn : ¬ s.commitTurn)
    (hmiss : s.seq.misses = tag :: rest) : s.grantNext = s.grantMiss tag rest := by
  rw [State.grantNext, if_neg (mt (commitTurn_iff h).mp hturn), hmiss]

theorem grantNext_fill {f : FillReq} {rest : List FillReq} (h : s.control.softReset = false) (hturn : ¬ s.commitTurn)
    (hmiss : s.seq.misses = []) (hfill : s.seq.fills = f :: rest) : s.grantNext = s.grantFill f rest := by
  rw [State.grantNext, if_neg (mt (commitTurn_iff h).mp hturn), hmiss, hfill]

theorem grantNext_commit (h : s.control.softReset = false)
    (hcommit : s.commitTurn ∨ (s.seq.misses = [] ∧ s.seq.fills = [] ∧ s.staging.hasClaim = true)) :
    s.grantNext = s.grantCommit := by
  unfold State.grantNext
  by_cases hturn : s.commitTurn
  case pos => exact if_pos ((commitTurn_iff h).mpr hturn)
  case neg =>
    obtain ⟨hmiss, hfill, hclaim⟩ := hcommit.resolve_left hturn
    rw [if_neg (mt (commitTurn_iff h).mp hturn), hmiss, hfill]
    exact if_pos ((commitClaim_eq h).trans hclaim)

theorem grantNext_sleep (h : s.control.softReset = false) (hmiss : s.seq.misses = []) (hfill : s.seq.fills = [])
    (hclaim : s.staging.hasClaim = false) : s.grantNext = s.grantSleep := by
  have hnone : s.commitClaim = false := (commitClaim_eq h).trans hclaim
  simp only [State.grantNext, hmiss, hfill, hnone, Bool.false_and, Bool.false_eq_true, if_false]

theorem canGrant_of (hidle : s.seq.st = .idle) (hsoft : s.control.softReset = false)
    (hclaim : s.seq.misses ≠ [] ∨ s.seq.fills ≠ [] ∨ s.staging.hasClaim = true ∨ s.seq.powerReq = some .sleep) :
    s.canGrant = true := by
  simp only [State.canGrant, hidle, hsoft, State.claimWaiting, commitClaim_eq hsoft]
  obtain h | h | h | h := hclaim <;> simp [h]

theorem canGrant_none (hsoft : s.control.softReset = false) (hmiss : s.seq.misses = []) (hfill : s.seq.fills = [])
    (hclaim : s.staging.hasClaim = false) (hreq : s.seq.powerReq ≠ some .sleep) : s.canGrant = false := by
  simp [State.canGrant, State.claimWaiting, commitClaim_eq hsoft, hmiss, hfill, hclaim, hreq]

/-! ### Commit grants (R38, R41, R43) -/

theorem grantCommit_step {i : Nat} {d : Sector} {c : CloseCause} {p : Progress} (hi : s.staging.committingIndex = some i)
    (he : s.staging.entry i = .committing d c p) : s.grantCommit = s.zeroShare.issueStep d p.step := by
  have hi' : s.zeroShare.staging.committingIndex = some i := hi
  have he' : s.zeroShare.staging.entry i = .committing d c p := he
  simp only [State.grantCommit, hi', he']

theorem grantCommit_start {i : Nat} {rest : List Nat} (hnone : s.staging.committingIndex = none)
    (hqueue : s.staging.closeQueue = i :: rest) : s.grantCommit = s.zeroShare.startCommit i rest := by
  have hnone' : s.zeroShare.staging.committingIndex = none := hnone
  have hqueue' : s.zeroShare.staging.closeQueue = i :: rest := hqueue
  simp only [State.grantCommit, hnone', hqueue']

/-- The entry COMMITTING at its first step, its number taken off the close queue (R41). -/
def State.committed (s : State) (i : Nat) (rest : List Nat) (d : Sector) (c : CloseCause) (step : CommitStep) : State :=
  s.withStaging { s.staging with
    entries := s.staging.entries.set i
      (.committing d c { plan := planOf d c, pages := pageList d (planOf d c), step := step, attempts := 1 }),
    closeQueue := rest }

section
variable {i : Nat} {rest : List Nat} {d : Sector} {c : CloseCause} (he : s.staging.entry i = .closed d c)
include he

theorem startCommit_steps {step : CommitStep} (hstep : firstStep (planOf d c) (pageList d (planOf d c)) = some step) :
    s.startCommit i rest = (s.committed i rest d c step).issueStep d step := by
  simp only [State.startCommit, he, hstep]
  rfl

theorem startCommit_noStep (hstep : firstStep (planOf d c) (pageList d (planOf d c)) = none) : s.startCommit i rest =
    s.withStaging { s.staging with
      entries := s.staging.entries.set i (.clean { d with lastUse := s.now }), closeQueue := rest } := by
  simp only [State.startCommit, he, hstep]
  rfl

end

end

theorem advanceFill_eq (f : FillReq) (rest : List FillReq) :
    advanceFill f rest = if f.page = 15 then rest else { f with page := f.page + 1 } :: rest := by
  simp only [advanceFill, isLastPage, beq_iff_eq, Config.sectorPages, Nat.reduceEqDiff]

/-- Settles O49. -/
theorem grantsFollowClassAndShare : Obligations.GrantsFollowClassAndShare := by
  refine ⟨fun s => ?link, fun s hidle hsoft => ?grants⟩
  case link =>
    intro p address send bare
    refine ⟨fun a n => ?read, fun n page work => ?program, fun n => ?erase, rfl, rfl, rfl, rfl, rfl⟩
    case read =>
      exact congrArg (fun x => send s
        [{ fn := .read, opcode := byteAt p 2, addr := x, dummies := (byteAt p 11).toNat, data := [], reads := n }])
        (addressBytes_eq s a)
    case program =>
      refine (issue_issue ..).trans ?_
      exact congrArg (fun x => send s [bare .arm 5,
        { fn := .program, opcode := byteAt p 3, addr := x, dummies := 0, data := imgSpan work (page * 256) 256, reads := 0 }])
        (addressBytes_eq (s.issueBare .arm) (n * 4096 + page * 256))
    case erase =>
      refine (issue_issue ..).trans ?_
      exact congrArg (fun x => send s [bare .arm 5,
        { fn := .erase, opcode := byteAt p 4, addr := x, dummies := 0, data := [], reads := 0 }])
        (addressBytes_eq (s.issueBare .arm) (n * 4096))
  case grants =>
    intro u claim turn share zero commit
    have hgrants {x : State} (hcan : u.canGrant = true) (h : u.grantNext = x) : Reaches .grant s x :=
      reaches_of_event rfl ((if_pos hcan).trans h)
    have hcommits {x : State} (hc : commit) (h : u.grantCommit = x) : Reaches .grant s x := by
      have hclaim : claim = true := by
        obtain ⟨hclaim, -⟩ | ⟨-, -, hclaim⟩ := hc <;> exact hclaim
      exact hgrants (canGrant_of hidle hsoft (.inr (.inr (.inl hclaim)))) ((grantNext_commit (s := u) hsoft hc).trans h)
    have hshare : u.countShare = u.withSeq { s.seq with share := share } :=
      congrArg (fun b => u.withSeq { s.seq with share := if b = true then s.seq.share + 1 else 0 }) (commitClaim_eq (s := u) hsoft)
    refine ⟨fun tag rest r hturn hmiss hr => ?miss, fun f rest hturn hmiss hfill => ?fill, fun i d c p hc hi he => ?step,
      fun i rest d c hc hnone hqueue he => ?start, fun hmiss hfill hclaim hreq => ?sleep, fun hmiss hfill hclaim hreq => ?none⟩
    case miss =>
      have hcan : u.canGrant = true := canGrant_of hidle hsoft (.inl (by rw [show u.seq.misses = _ from hmiss]; nofun))
      refine hgrants hcan ((grantNext_miss (s := u) hsoft hturn hmiss).trans ?_)
      have hr' : (u.withSeq { s.seq with share := share }).readOf tag = some r := hr
      rw [State.grantMiss, hshare, issueMissRead_readOf hr']
      rfl
    case fill =>
      have hcan : u.canGrant = true := canGrant_of hidle hsoft (.inr (.inl (by rw [show u.seq.fills = _ from hfill]; nofun)))
      refine hgrants hcan ((grantNext_fill (s := u) hsoft hturn hmiss hfill).trans ?_)
      rw [State.grantFill, hshare, advanceFill_eq]
      rfl
    case step =>
      have hstep := grantCommit_step (s := u) hi he
      exact ⟨fun hp => hcommits hc (hstep.trans (by rw [hp]; rfl)), fun n hp => hcommits hc (hstep.trans (by rw [hp]; rfl)),
        fun n hp => hcommits hc (hstep.trans (by rw [hp]; rfl))⟩
    case start =>
      intro plan pages started
      have hstart := grantCommit_start (s := u) hnone hqueue
      refine ⟨fun hplan => hcommits hc (hstart.trans ?erase), fun n more hplan hpages => hcommits hc (hstart.trans ?program),
        fun hplan hpages => hcommits hc (hstart.trans ?unwritten)⟩
      case erase =>
        have hfirst : firstStep plan pages = some .erase := by rw [hplan]; rfl
        exact startCommit_steps (s := zero) he hfirst
      case program =>
        have hfirst : firstStep plan pages = some (.program n) := by rw [hplan, hpages]; rfl
        exact startCommit_steps (s := zero) he hfirst
      case unwritten =>
        have hfirst : firstStep plan pages = none := by rw [hplan, hpages]; rfl
        exact startCommit_noStep (s := zero) he hfirst
    case sleep =>
      intro asleep
      have hcan : u.canGrant = true := canGrant_of hidle hsoft (.inr (.inr (.inr hreq)))
      have hnext := grantNext_sleep (s := u) hsoft hmiss hfill hclaim
      exact ⟨fun hst => hgrants hcan (hnext.trans (if_neg hst)), fun hst => hgrants hcan (hnext.trans (if_pos hst))⟩
    case none =>
      have hcan : u.canGrant = false := canGrant_none (s := u) hsoft hmiss hfill hclaim hreq
      exact reaches_of_event rfl (if_neg (Bool.eq_false_iff.mp hcan))

end Sys2Proof.Machine
end

section
/-! SUPPORT. Commit plans (R5, R41, R42): what the flash holds after the operations of a plan. -/

namespace Sys2Proof.Machine

/-! ### Spans and images -/

theorem length_imgSpan (img : Image) (k n : Nat) : (imgSpan img k n).length = n := by
  induction n generalizing k with
  | zero => rfl
  | succ n ih => rw [imgSpan, List.length_cons, ih]

theorem getElem_imgSpan {img : Image} {k n i : Nat} (h : i < (imgSpan img k n).length) : (imgSpan img k n)[i] = imgRead img (k + i) := by
  induction n generalizing k i with
  | zero => simp [imgSpan] at h
  | succ n ih =>
    cases i with
    | zero => rfl
    | succ i =>
      simp only [imgSpan, List.getElem_cons_succ]
      rw [ih]
      congr 1
      omega

/-- Beyond the sector an image reads as erased. -/
theorem imgRead_beyond {img : Image} {k : Nat} (h : Memory.wf img = true) (hk : 4096 ≤ k) : imgRead img k = 0xFF := by
  by_contra hne
  obtain ⟨c, hc, rfl⟩ := (imgRead_ne_iff_mem h).mp hne
  exact absurd (imgWf_bound h hc).2 (Nat.not_lt.mpr hk)

/-! ### PROGRAM (Table 3-1) -/

section
variable {work img : Image} {p k : Nat} (h : Memory.wf img = true) (hp : p < 16)
include h hp

theorem wf_flashProgram : Memory.wf (flashProgram work img p) = true := by
  refine wf_imgWriteBytes h ?_
  simp only [List.length_zipWith, pageBytesOf, length_imgSpan, Config.pageBytes, Config.sectorBytes]
  omega

/-- A programmed page keeps the bits that are one in both; every other page is as it was. -/
theorem read_flashProgram : imgRead (flashProgram work img p) k =
    if k / 256 = p then imgRead img k &&& imgRead work k else imgRead img k := by
  have hlength : (List.zipWith (· &&& ·) (pageBytesOf img p) (pageBytesOf work p)).length = 256 := by
    simp [pageBytesOf, length_imgSpan, Config.pageBytes]
  rw [flashProgram, read_imgWriteBytes k h (by rw [hlength]; simp only [Config.pageBytes, Config.sectorBytes]; omega), hlength]
  by_cases hk : k / 256 = p
  case neg => rw [if_neg hk, if_neg (by simp only [Config.pageBytes]; omega)]
  case pos =>
    have hin : k - p * 256 < 256 := by omega
    rw [if_pos hk, if_pos (by simp only [Config.pageBytes]; omega), List.getD_eq_getElem _ _ (by rw [hlength]; exact hin)]
    simp only [List.getElem_zipWith, pageBytesOf, getElem_imgSpan, Config.pageBytes]
    rw [show p * 256 + (k - p * 256) = k by omega]

end

/-- After a list of pages is programmed (R41). -/
theorem read_foldl_flashProgram (work : Image) (k : Nat) : ∀ {pages : List Nat} {img : Image}, Memory.wf img = true →
    (∀ p ∈ pages, p < 16) → imgRead (pages.foldl (flashProgram work) img) k =
      if k / 256 ∈ pages then imgRead img k &&& imgRead work k else imgRead img k
  | [], _, _, _ => rfl
  | p :: pages, img, h, hp => by
    have hp0 := hp p List.mem_cons_self
    rw [List.foldl_cons, read_foldl_flashProgram work k (wf_flashProgram h hp0) fun q hq => hp q (List.mem_cons_of_mem _ hq),
      read_flashProgram h hp0]
    by_cases hk : k / 256 = p
    case neg => simp only [List.mem_cons, hk, false_or, if_false]
    case pos => simp only [List.mem_cons, hk, true_or, if_true, BitVec.and_assoc, BitVec.and_self, ite_self]

/-! ### Plans and page lists (R5, R41, R42) -/

theorem pageBlank_iff {img : Image} (h : Memory.wf img = true) (p : Nat) :
    pageBlank img p = false ↔ ∃ k, k / 256 = p ∧ imgRead img k ≠ 0xFF := by
  simp only [pageBlank, Bool.not_eq_false', List.any_eq_true, Bool.and_eq_true, beq_iff_eq, bne_iff_ne]
  constructor
  case mp =>
    rintro ⟨c, -, hc, hne⟩
    exact ⟨c.1, hc, hne⟩
  case mpr =>
    rintro ⟨k, hk, hne⟩
    obtain ⟨c, hc, rfl⟩ := (imgRead_ne_iff_mem h).mp hne
    exact ⟨c, hc, hk, hne⟩

/-- A byte has a one where another has a zero. -/
theorem and_not_ne_zero_iff (x y : Byte) : x &&& ~~~y ≠ 0 ↔ ∃ b, x.getLsbD b = true ∧ y.getLsbD b = false := by
  constructor
  case mp =>
    intro hne
    by_contra hall
    refine hne (BitVec.eq_of_getLsbD_eq fun b hb => ?_)
    have hbit : x.getLsbD b = true → y.getLsbD b = true := fun hx => by
      by_contra hy
      exact hall ⟨b, hx, Bool.eq_false_iff.mpr hy⟩
    cases hx : x.getLsbD b <;> simp_all
  case mpr =>
    rintro ⟨b, hx, hy⟩ hzero
    have hb : b < 8 := BitVec.lt_of_getLsbD hx
    have hbit : (x &&& ~~~y).getLsbD b = true := by
      rw [BitVec.getLsbD_and, hx, BitVec.getLsbD_not, hy]
      simp [hb]
    rw [hzero] at hbit
    simp at hbit

theorem eraseNeeded_iff {d : Sector} (hb : Memory.wf d.base = true) (hw : Memory.wf d.work = true) :
    eraseNeeded d = true ↔ ∃ k b, (imgRead d.work k).getLsbD b = true ∧ (imgRead d.base k).getLsbD b = false := by
  simp only [eraseNeeded, List.any_eq_true, bne_iff_ne, and_not_ne_zero_iff]
  constructor
  case mp =>
    rintro ⟨c, -, b, hbit⟩
    exact ⟨c.1, b, hbit⟩
  case mpr =>
    rintro ⟨k, b, hone, hzero⟩
    have hdiffers : byteDiffers d k = true := by
      refine bne_iff_ne.mpr fun heq => ?_
      rw [heq, hzero] at hone
      cases hone
    obtain ⟨c, hc, rfl⟩ := byteDiffers_mem hb hw hdiffers
    exact ⟨c, hc, b, hone, hzero⟩

theorem mem_pageList_erase {d : Sector} (hw : Memory.wf d.work = true) (p : Nat) :
    p ∈ pageList d .eraseThenProgram ↔ p < 16 ∧ ∃ k, k / 256 = p ∧ imgRead d.work k ≠ 0xFF := by
  rw [← pageBlank_iff hw p]
  simp [pageList, Config.sectorPages]

theorem mem_pageList_program {d : Sector} (hb : Memory.wf d.base = true) (hw : Memory.wf d.work = true) (p : Nat) :
    p ∈ pageList d .programOnly ↔ p < 16 ∧ ∃ k, k / 256 = p ∧ imgRead d.work k ≠ imgRead d.base k :=
  mem_dirtyPages.trans (and_congr Iff.rfl (pageDirty_iff hb hw p))

theorem pageList_lt (d : Sector) (q : CommitPlan) : ∀ p ∈ pageList d q, p < 16 := by
  intro p hp
  cases q <;> exact List.mem_range.mp (List.mem_filter.mp hp).1

theorem pageList_sorted (d : Sector) (q : CommitPlan) : (pageList d q).Pairwise (· < ·) := by
  cases q <;> exact List.Pairwise.filter _ List.pairwise_lt_range

/-! ### What the flash holds after a plan -/

section
variable {d : Sector} (hb : Memory.wf d.base = true) (hw : Memory.wf d.work = true)
include hw

/-- A plan with an erase writes the working image whatever the sector held. -/
theorem read_flashAfterPlan_erase (img : Image) (k : Nat) :
    imgRead (flashAfterPlan d.work img .eraseThenProgram (pageList d .eraseThenProgram)) k = imgRead d.work k := by
  have hread := read_foldl_flashProgram d.work k (pages := pageList d .eraseThenProgram) wf_nil (pageList_lt d _)
  refine hread.trans ?_
  by_cases hlisted : k / 256 ∈ pageList d .eraseThenProgram
  case pos =>
    rw [if_pos hlisted]
    exact BitVec.allOnes_and
  case neg =>
    rw [if_neg hlisted]
    by_contra hne
    have hk : k < 4096 := Nat.lt_of_not_le fun hk => hne (imgRead_beyond hw hk).symm
    exact hlisted ((mem_pageList_erase hw _).mpr ⟨by omega, k, rfl, fun h => hne h.symm⟩)

include hb

/-- Without an erase, where none is needed, the dirty pages programmed give the working image. -/
theorem read_flashAfterPlan_program (hneeded : eraseNeeded d = false) (k : Nat) :
    imgRead (flashAfterPlan d.work d.base .programOnly (pageList d .programOnly)) k = imgRead d.work k := by
  have hread := read_foldl_flashProgram d.work k (pages := pageList d .programOnly) hb (pageList_lt d _)
  refine hread.trans ?_
  by_cases hlisted : k / 256 ∈ pageList d .programOnly
  case pos =>
    rw [if_pos hlisted]
    refine BitVec.eq_of_getLsbD_eq fun b _ => ?_
    have hbit : ¬ ((imgRead d.work k).getLsbD b = true ∧ (imgRead d.base k).getLsbD b = false) := fun h =>
      Bool.false_ne_true (hneeded.symm.trans ((eraseNeeded_iff hb hw).mpr ⟨k, b, h⟩))
    cases hx : (imgRead d.work k).getLsbD b <;> simp_all
  case neg =>
    rw [if_neg hlisted]
    by_contra hne
    have hdiffers : imgRead d.work k ≠ imgRead d.base k := fun h => hne h.symm
    have hk := differs_bound hb hw hdiffers
    simp only [Config.sectorBytes] at hk
    exact hlisted ((mem_pageList_program hb hw _).mpr ⟨by omega, k, rfl, hdiffers⟩)

end

theorem planOf_eq_erase_iff {d : Sector} {c : CloseCause} :
    planOf d c = .eraseThenProgram ↔ c = .retry ∨ eraseNeeded d = true := by
  unfold planOf
  cases eraseNeeded d <;> by_cases hc : c = .retry <;> simp [hc]

theorem planOf_program {d : Sector} {c : CloseCause} (h : planOf d c = .programOnly) : eraseNeeded d = false := by
  refine Bool.eq_false_iff.mpr fun hneeded => ?_
  rw [planOf_eq_erase_iff.mpr (.inr hneeded)] at h
  cases h

/-- Settles O47. -/
theorem commitPlansWriteTheWorkingImage : Obligations.CommitPlansWriteTheWorkingImage := by
  intro d c hb hw plan
  refine ⟨planOf_eq_erase_iff.trans (or_congr Iff.rfl (eraseNeeded_iff hb hw)), fun k => ?written, fun img k _ hplan => ?erased,
    fun hnone k => ?noStep, pageList_sorted d, mem_pageList_program hb hw, mem_pageList_erase hw⟩
  case written =>
    cases hplan : plan with
    | eraseThenProgram => exact read_flashAfterPlan_erase hw d.base k
    | programOnly => exact read_flashAfterPlan_program hb hw (planOf_program hplan) k
  case erased =>
    rw [hplan]
    exact read_flashAfterPlan_erase hw img k
  case noStep =>
    cases hplan : plan with
    | eraseThenProgram => rw [hplan] at hnone; cases hnone
    | programOnly =>
      have hwritten := read_flashAfterPlan_program hb hw (planOf_program hplan) k
      rw [hplan] at hnone
      have hpages : pageList d .programOnly = [] := by
        cases hlist : pageList d .programOnly with
        | nil => rfl
        | cons p rest => rw [hlist] at hnone; cases hnone
      rwa [hpages] at hwritten

end Sys2Proof.Machine
end

section
/-! SUPPORT. Merges (R7, R11 to R14, R18) and the answers of writes (R92, R100 to R102, R123, R127, R136, R171). -/

namespace Sys2Proof.Machine

/-! ### The written offsets of a fill (R12) -/

theorem mem_setInsert (k j : Nat) (set : List Nat) : j ∈ setInsert k set ↔ j = k ∨ j ∈ set := by
  induction set with
  | nil => simp [setInsert]
  | cons a r ih =>
    unfold setInsert
    split_ifs with hlt heq
    · simp
    · simp [heq]
    · simp [ih, or_left_comm]

theorem mem_addOffsets (j : Nat) (bytes : List (Option Byte)) (set : List Nat) (off : Nat) :
    j ∈ addOffsets set off bytes ↔ j ∈ set ∨ (off ≤ j ∧ ∃ b, bytes[j - off]? = some (some b)) := by
  induction bytes generalizing set off with
  | nil => simp [addOffsets]
  | cons x r ih =>
    have hshift : (off + 1 ≤ j ∧ ∃ b, r[j - (off + 1)]? = some (some b)) ↔
        (off < j ∧ ∃ b, (x :: r)[j - off]? = some (some b)) := by
      refine and_congr_right fun hj => ?_
      rw [show j - off = (j - (off + 1)) + 1 by omega, List.getElem?_cons_succ]
    have hhead : (off ≤ j ∧ ∃ b, (x :: r)[j - off]? = some (some b)) ↔
        (j = off ∧ ∃ b, x = some b) ∨ (off < j ∧ ∃ b, (x :: r)[j - off]? = some (some b)) := by
      constructor
      case mp =>
        rintro ⟨hle, b, hb⟩
        obtain rfl | hlt := Nat.eq_or_lt_of_le hle
        · exact .inl ⟨rfl, b, by simpa using hb⟩
        · exact .inr ⟨hlt, b, hb⟩
      case mpr =>
        rintro (⟨rfl, b, rfl⟩ | ⟨hlt, h⟩)
        · exact ⟨le_rfl, b, by simp⟩
        · exact ⟨hlt.le, h⟩
    rw [hhead, ← hshift]
    cases x with
    | none => rw [addOffsets, ih]; simp
    | some b => rw [addOffsets, ih, mem_setInsert]; simp [or_left_comm, or_assoc]

/-- Settles O39. -/
theorem mergesFollowTheEntryState : Obligations.MergesFollowTheEntryState := by
  refine ⟨fun img off k bytes h hfits => ⟨wf_imgMerge h hfits, ?read⟩, fun now t off bytes d => ?entry⟩
  case read =>
    rw [read_imgMerge k h hfits]
    refine if_congr Iff.rfl ?_ rfl
    cases bytes[k - off]? with
    | none => rfl
    | some x => cases x <;> rfl
  case entry =>
    intro d' idle fresh merged
    have hmerged (age : Option Tick) : some (mergeOpen now t off bytes d age) = merged age := by
      dsimp only [mergeOpen, merged]
      exact (apply_ite some ..).trans (if_congr Iff.rfl (apply_ite some ..) rfl)
    refine ⟨fun tm => hmerged tm.age, hmerged none, fun c => rfl, fun f => ⟨_, rfl, fun k => mem_addOffsets k bytes f.written off⟩, fun c p => rfl,
      fun r => rfl, fun n => ⟨_, rfl, fun k => ?_⟩⟩
    simpa using mem_addOffsets k bytes [] off

end Sys2Proof.Machine
end

section
/-! SUPPORT. The answers of writes (R92, R100 to R102, R123, R127, R136, R171). -/

namespace Sys2Proof.Machine

/-! ### The record and the latch copy (R123, R136) -/

theorem captureWrite_absorbed (s : State) (w : WriteInProgress) (data : List Byte) :
    s.captureWrite w true .absorbed data = match w.decision with
      | some { capture := some q, rule := i, captureData := keep, .. } => s.putRecord q true
          { number := 0, tick := s.now, access := .write, line := w.req.line, offset := w.req.offset,
            length := w.req.bytes.length, rule := i, outcome := .absorbed, data := if keep then some data else none }
      | _ => s := by
  obtain ⟨req, accepted, hold, stage, decision⟩ := w
  cases decision with
  | none => rfl
  | some d =>
    obtain ⟨rule, action, capture, keep, urgent⟩ := d
    cases capture with
    | none => rfl
    | some q => cases keep <;> rfl

theorem captureWrite_refused (s : State) (w : WriteInProgress) (reason : RefusalReason) :
    (s.releaseFor w.decision).captureWrite w false (.refused reason) [] = match w.decision with
      | some { capture := some q, rule := i, .. } =>
          (s.withCapture (s.capture.setQueue q { s.capture.queue q with reserved := false })).putRecord q false
            { number := 0, tick := s.now, access := .write, line := w.req.line, offset := w.req.offset,
              length := w.req.bytes.length, rule := i, outcome := .refused reason, data := none }
      | _ => s := by
  obtain ⟨req, accepted, hold, stage, decision⟩ := w
  cases decision with
  | none => rfl
  | some d =>
    obtain ⟨rule, action, capture, keep, urgent⟩ := d
    cases capture with
    | none => rfl
    | some q => cases keep <;> rfl

theorem latchWrite_eq {s : State} {now : Tick} (hnow : s.now = now) (w : WriteInProgress) (data : List Byte) :
    s.latchWrite w data = match w.decision with
      | some { action := .latch n, rule := i, .. } =>
          let slot : LatchSlot :=
            { isNew := true, record := some { line := w.req.line, offset := w.req.offset, data := data, tick := now,
                                              rule := i.number } }
          (s.withCapture { s.capture with slots := s.capture.slots.set n slot }).raise .slotFilled
      | _ => s := by
  subst hnow
  obtain ⟨req, accepted, hold, stage, decision⟩ := w
  cases decision with
  | none => rfl
  | some d =>
    obtain ⟨rule, action, capture, keep, urgent⟩ := d
    cases action <;> rfl

/-! ### The overlay (R171) -/

theorem lineIndex_isSome (o : Overlay) (line : Addr) : (o.lineIndex line).isSome = true ↔
    o.line.toNat / 64 ≤ line.toNat / 64 ∧ line.toNat / 64 < o.line.toNat / 64 + o.count := by
  unfold Overlay.lineIndex
  dsimp only [Config.lineBytes]
  split_ifs with h <;> simp [h]

theorem overlayWritten_missed {s : State} {line : Addr}
    (h : ∀ o, s.control.overlay = some o → ¬ (o.lineIndex line).isSome = true) : s.overlayWritten line = s := by
  unfold State.overlayWritten
  split
  case h_1 => rfl
  case h_2 o ho => exact if_neg (h o ho)

theorem overlayWritten_hit {s : State} {line : Addr} {o : Overlay} (ho : s.control.overlay = some o)
    (h : (o.lineIndex line).isSome = true) :
    s.overlayWritten line = (s.withControl { s.control with overlay := none }).resolveAfresh Read.fromOverlay := by
  simp only [State.overlayWritten, ho, h, if_true, State.endOverlay]

/-! ### Held results (R92) -/

theorem length_patchBytes (at1 : Nat) (old : List Byte) (at2 : Nat) (new : List (Option Byte)) :
    (patchBytes at1 old at2 new).length = old.length := by
  induction old generalizing at1 with
  | nil => rfl
  | cons b r ih => rw [patchBytes, List.length_cons, ih, List.length_cons]

theorem getElem?_patchBytes {at1 k at2 : Nat} {old : List Byte} {new : List (Option Byte)} (hk : k < old.length) :
    (patchBytes at1 old at2 new)[k]? =
      some ((if at2 ≤ at1 + k then (new[at1 + k - at2]?).join else none).getD (byteAt old k)) := by
  induction old generalizing at1 k with
  | nil => simp at hk
  | cons b r ih =>
    cases k with
    | zero =>
      rw [patchBytes, List.getElem?_cons_zero, byteAt_cons_zero, Nat.add_zero]
      by_cases hlt : at1 < at2
      case pos => rw [if_pos hlt, if_neg (Nat.not_le.mpr hlt)]; rfl
      case neg =>
        rw [if_neg hlt, if_pos (Nat.not_lt.mp hlt)]
        cases new[at1 - at2]? with
        | none => rfl
        | some x => cases x <;> rfl
    | succ k =>
      rw [patchBytes, List.getElem?_cons_succ, byteAt_cons_succ, ih (by simpa using hk), show at1 + 1 + k = at1 + (k + 1) by omega]

theorem fromOverlay_iff (r : Read) : r.fromOverlay = true ↔ ∃ bs, r.stage = .resolved (.ok bs .overlay) := by
  obtain ⟨tag, req, decision, stage⟩ := r
  unfold Read.fromOverlay
  split
  case h_1 bs hstage => exact ⟨fun _ => ⟨bs, hstage⟩, fun _ => rfl⟩
  case h_2 hstage => exact ⟨nofun, fun ⟨bs, hbs⟩ => absurd hbs (hstage bs)⟩

theorem updateResult_held {w : WriteReq} {r : Read} {bs : List Byte} {src : ReadSource} (hstage : r.stage = .resolved (.ok bs src))
    (hline : r.req.line = w.line) :
    updateResult w r = { r with stage := .resolved (.ok (patchBytes r.req.offset bs w.offset w.bytes) src) } := by
  simp only [updateResult, hstage, if_pos hline]

theorem updateResult_other {w : WriteReq} {r : Read} (h : (∀ bs src, r.stage ≠ .resolved (.ok bs src)) ∨ r.req.line ≠ w.line) :
    updateResult w r = r := by
  unfold updateResult
  split
  case h_1 bs src hstage => exact if_neg (h.resolve_left fun hnot => hnot bs src hstage)
  case h_2 => rfl

/-- Settles O40. -/
theorem writeAnswersHaveTheirEffects : Obligations.WriteAnswersHaveTheirEffects := by
  intro s w
  refine ⟨fun work => ?ok, fromOverlay_iff, fun r => ⟨fun bs src hstage hline => ?held, updateResult_other⟩,
    fun i e d hd => ?lands, fun reason => ?refused⟩
  case held =>
    exact ⟨_, updateResult_held hstage hline, length_patchBytes .., fun k hk => getElem?_patchBytes hk⟩
  case lands =>
    intro merged
    have hwork : (e.data?.map (·.work)).getD [] = d.work := by rw [hd]; rfl
    have hclosed : (s.withStaging merged).closeMerged i = s.withStaging (match s.power.st with
        | .drain => merged.close .drain i
        | .emergency => merged.close .emergency i
        | _ => merged) := by
      unfold State.closeMerged
      rw [State.withStaging_power]
      cases s.power.st <;> rfl
    rw [State.landWrite, hwork]
    exact congrArg (fun x : State => x.answerWrite w d.work) hclosed
  case refused =>
    intro a captured
    refine ⟨?_, by simp⟩
    have hcaptured : (a.releaseFor w.decision).captureWrite w false (.refused reason) [] = captured := captureWrite_refused a w reason
    have hnow : captured.now = s.now := by
      rw [← hcaptured]
      simp [State.now, a]
    have hrefused : s.refuseWrite w reason = captured.recordRefusal reason .write w.req.line w.decision :=
      congrArg (fun x : State => x.recordRefusal reason .write w.req.line w.decision) hcaptured
    rw [hrefused, ← hnow]
    rfl
  case ok =>
    intro data a captured latched updated onOverlay
    have hcaptured : a.captureWrite w true .absorbed data = captured := captureWrite_absorbed a w data
    have hnow : captured.now = s.now := by
      rw [← hcaptured]
      simp [State.now, a]
    have hlatched : captured.latchWrite w data = latched := latchWrite_eq hnow w data
    have hreads : latched.port.reads = s.port.reads := by
      rw [← hlatched, ← hcaptured]
      simp [a]
    have hcontrol : updated.control = s.control := by
      have : latched.control = s.control := by
        rw [← hlatched, ← hcaptured]
        simp [a]
      exact this
    have hanswer : s.answerWrite w work = updated.overlayWritten w.req.line := by
      have hupdated : latched.updateResults w.req = updated := by rw [State.updateResults, hreads]
      rw [← hupdated, ← hlatched, ← hcaptured]
      rfl
    refine ⟨fun hmissed => hanswer.trans (overlayWritten_missed fun o ho => ?missed), fun o ho hon => ?ends⟩
    case missed =>
      rw [hcontrol] at ho
      exact mt (lineIndex_isSome o _).mp (hmissed o ho)
    case ends =>
      intro ended
      have ho' : updated.control.overlay = some o := by rw [hcontrol, ho]
      have hended : s.answerWrite w work = ended.resolveAfresh Read.fromOverlay := by
        refine hanswer.trans ((overlayWritten_hit ho' ((lineIndex_isSome o _).mpr hon)).trans ?_)
        rw [hcontrol]
      exact ⟨ResolvesAfresh.exists_filter ended _, fun x hx => hended.trans (ResolvesAfresh.resolveAfresh_eq (s := ended) hx)⟩

end Sys2Proof.Machine
end

section
/-! SUPPORT. The answers of reads, the hazard releases and the stages of a read request (R82 to R90, R93, R102, R122). -/

namespace Sys2Proof.Machine

/-! ### Answers (R86, R93, R122) -/

theorem captureRead_eq {s : State} {now : Tick} (hnow : s.now = now) (r : Read) (o : CaptureOutcome) :
    s.captureRead r o = match r.decision with
      | some { capture := some q, rule := i, .. } => s.putRecord q false
          { number := 0, tick := now, access := .read, line := r.req.line, offset := r.req.offset, length := r.req.length,
            rule := i, outcome := o, data := none }
      | _ => s := by
  subst hnow
  obtain ⟨tag, req, decision, stage⟩ := r
  cases decision with
  | none => rfl
  | some d =>
    obtain ⟨rule, action, capture, keep, urgent⟩ := d
    cases capture <;> rfl

theorem canAnswer_of_resolved {s : State} {r : Read} {rest : List Read} {x : ReadResult} (hreads : s.port.reads = r :: rest)
    (hstage : r.stage = .resolved x) : s.canAnswer = true := by
  obtain ⟨tag, req, decision, stage⟩ := r
  subst hstage
  simp only [State.canAnswer, hreads]

theorem canAnswer_of_unresolved {s : State} {r : Read} {rest : List Read} (hreads : s.port.reads = r :: rest)
    (hstage : ∀ x, r.stage ≠ .resolved x) : s.canAnswer = false := by
  obtain ⟨tag, req, decision, stage⟩ := r
  cases stage with
  | resolved x => exact absurd rfl (hstage x)
  | _ => simp only [State.canAnswer, hreads]

theorem hazardOver_iff (s : State) (r : Read) : s.hazardOver r = true ↔
    r.stage = .waitingHazard ∧ ∀ w, s.port.write = some w → w.req.line ≠ r.req.line := by
  unfold State.hazardOver State.hazard
  cases s.port.write <;> simp

/-- Settles O37. -/
theorem readAnswersAndHazardReleases : Obligations.ReadAnswersAndHazardReleases := by
  refine ⟨fun s r rest hreads => ?answers, fun s => ?releases⟩
  case answers =>
    intro answer given captured
    have hanswers {x : ReadResult} {t : State} (hstage : r.stage = .resolved x) (h : (s.clearOut.setReads rest).answerRead r x = t) :
        Reaches .readAnswer s t :=
      reaches_of_event rfl ((if_pos (canAnswer_of_resolved (s := s.clearOut) hreads hstage)).trans
        ((answerOldest_resolved (s := s.clearOut) hreads hstage).trans h))
    refine ⟨fun bs src hstage => hanswers hstage (captureRead_eq (s := given (.ok bs)) rfl r .served),
      fun reason hstage => hanswers hstage ?refused,
      fun hstage => reaches_of_event rfl
        (if_neg (Bool.eq_false_iff.mp (canAnswer_of_unresolved (s := s.clearOut) hreads hstage)))⟩
    case refused =>
      have hcaptured := captureRead_eq (s := given (.err reason)) (now := s.now) rfl r (.refused reason)
      have hnow : ((given (.err reason)).captureRead r (.refused reason)).now = s.now := by simp [State.now, given]
      refine (congrArg (fun x : State => x.recordRefusal reason .read r.req.line r.decision) hcaptured).trans ?_
      rw [hcaptured] at hnow
      rw [State.recordRefusal, hnow]
      rfl
  case releases =>
    refine ⟨ContinueInTurn.total _ s.clearOut fun _ hr => List.mem_map_of_mem (List.mem_of_mem_filter hr),
      fun x hx => reaches_of_event rfl hx.foldl_eq, hazardOver_iff s, fun hnone => reaches_of_event rfl ?_⟩
    have hfilter : s.clearOut.port.reads.filter s.clearOut.hazardOver = [] := hnone
    rw [State.releaseHazards, hfilter]
    rfl

/-! ### The overlay stage (R89) -/

theorem length_replySpan (bytes : List Byte) (k n : Nat) : (replySpan bytes k n).length = n := by
  induction n generalizing k with
  | zero => rfl
  | succ n ih => rw [replySpan, List.length_cons, ih]

theorem getElem?_replySpan {bytes : List Byte} {k n i : Nat} (h : i < n) : (replySpan bytes k n)[i]? = some (byteAt bytes (k + i)) := by
  induction n generalizing k i with
  | zero => exact absurd h i.not_lt_zero
  | succ n ih =>
    cases i with
    | zero => rfl
    | succ i => rw [replySpan, List.getElem?_cons_succ, ih (Nat.lt_of_succ_lt_succ h), show k + 1 + i = k + (i + 1) by omega]

theorem overlayBytes_on {s : State} {req : ReadReq} {o : Overlay} (ho : s.control.overlay = some o)
    (h : o.line.toNat / 64 ≤ req.line.toNat / 64 ∧ req.line.toNat / 64 < o.line.toNat / 64 + o.count) :
    s.overlayBytes req = some (replySpan o.bytes ((req.line.toNat / 64 - o.line.toNat / 64) * 64 + req.offset) req.length) := by
  have hindex : o.lineIndex req.line = some (req.line.toNat / 64 - o.line.toNat / 64) := if_pos h
  simp only [State.overlayBytes, ho, hindex]
  rfl

theorem overlayBytes_off {s : State} {req : ReadReq} {o : Overlay} (ho : s.control.overlay = some o)
    (h : ¬ (o.line.toNat / 64 ≤ req.line.toNat / 64 ∧ req.line.toNat / 64 < o.line.toNat / 64 + o.count)) :
    s.overlayBytes req = none := by
  have hindex : o.lineIndex req.line = none := if_neg h
  simp only [State.overlayBytes, ho, hindex]
  rfl

/-! ### A read that enters the queue (R85, R87) -/

theorem resolveHazard_waits {s : State} {tag : Nat} {r : Read} (hr : s.readOf tag = some r) (h : s.hazard r.req.line = true) :
    s.resolveHazard tag = s.setStage tag .waitingHazard := by
  simp only [State.resolveHazard, hr, if_pos h]

theorem resolveHazard_goesOn {s : State} {tag : Nat} {r : Read} (hr : s.readOf tag = some r) (h : s.hazard r.req.line = false) :
    s.resolveHazard tag = s.resolveOverlay tag := by
  simp only [State.resolveHazard, hr, h, Bool.false_eq_true, if_false]

section
variable {y : State} {reads : List Read} {r : Read} (hfresh : ∀ q ∈ reads, q.tag ≠ r.tag)
include hfresh

theorem readOf_setReads_append : (y.setReads (reads ++ [r])).readOf r.tag = some r := by
  have hothers : reads.find? (fun q => q.tag == r.tag) = none :=
    List.find?_eq_none.mpr fun q hq => by simpa using hfresh q hq
  simp [State.readOf, List.find?_append, hothers]

theorem setStage_setReads_append (x : ReadStage) :
    (y.setReads (reads ++ [r])).setStage r.tag x = y.setReads (reads ++ [{ r with stage := x }]) := by
  have hothers : reads.map (fun q => if q.tag = r.tag then { q with stage := x } else q) = reads := by
    refine (List.map_congr_left fun q hq => if_neg (hfresh q hq)).trans (List.map_id _)
  simp only [State.setStage, State.updateRead, State.setReads_port, List.map_append, hothers, List.map_cons, List.map_nil,
    if_true]
  rfl

end

/-- At rest a read lane that is closed or full lets the request wait. -/
theorem read_waits {s : State} (h : s.atRest) (hno : s.port.lanesOpen = false ∨ 4 ≤ s.port.reads.length) (a : Addr)
    (offset length : Nat) : (s.presentRead a offset length).atRest := by
  obtain ⟨-, -, -, -, -, -, -, -, -, -, hwrite⟩ := (atRest_iff s).mp h
  have hnot : ¬ (s.presentRead a offset length).canAcceptWrite = true := fun hx => Bool.false_ne_true (hwrite.symm.trans hx)
  have hfull : ¬ (s.presentRead a offset length).canAcceptRead = true := by
    rw [canAcceptRead_iff]
    rintro ⟨hopen, hroom, -⟩
    obtain hclosed | hmany := hno
    · exact Bool.false_ne_true (hclosed.symm.trans hopen)
    · exact absurd hroom (Nat.not_lt.mpr hmany)
  exact (settleOnce_waiting h rfl).trans ((if_neg hnot).trans (if_neg hfull))

section
variable {s : State} {req : ReadReq}

theorem acceptRead_crossing (h : 64 < req.offset + req.length) : s.acceptRead req = s.pushRead
    { tag := freshTag s.port.reads, req := req, decision := none, stage := .resolved (.err .badSpan) } :=
  if_pos (decide_eq_true h)

variable (hspan : req.offset + req.length ≤ 64)
include hspan

theorem acceptRead_unconfigured (hpower : s.power.st = .unconfigured) : s.acceptRead req = (s.pushRead
    { tag := freshTag s.port.reads, req := req, decision := none, stage := .resolving }).resolveHazard (freshTag s.port.reads) := by
  have hcross : crossesLine req.offset req.length = false := decide_eq_false (Nat.not_lt.mpr hspan)
  exact (if_neg (Bool.eq_false_iff.mp hcross)).trans (if_pos hpower)

theorem acceptRead_beyond (hpower : s.power.st ≠ .unconfigured) (hwindow : s.pastWindow req.line req.offset req.length = true) :
    s.acceptRead req = s.pushRead
      { tag := freshTag s.port.reads, req := req, decision := none, stage := .resolved (.err .badSpan) } := by
  have hcross : crossesLine req.offset req.length = false := decide_eq_false (Nat.not_lt.mpr hspan)
  exact (if_neg (Bool.eq_false_iff.mp hcross)).trans ((if_neg hpower).trans (if_pos hwindow))

end

/-- Settles O36. -/
theorem readRequestTakesItsStages : Obligations.ReadRequestTakesItsStages := by
  refine ⟨fun s req => ⟨fun hnone => ?absent, fun o ho => ?overlay⟩, fun s line offset length hrest => ?request⟩
  case absent => rw [State.overlayBytes, hnone]
  case overlay =>
    intro first l
    refine ⟨fun hon => ⟨_, overlayBytes_on ho hon, length_replySpan .., fun k hk => ?_⟩, fun hoff => overlayBytes_off ho hoff⟩
    rw [getElem?_replySpan hk]
    exact congrArg some (List.getD_eq_getElem?_getD ..)
  case request =>
    intro c req tag u d v push
    refine ⟨fun hno => ?waits, fun hlanes hroom => ?accepted⟩
    case waits =>
      exact congrArg Host.Outcome.next
        (event_of_atRest (body := fun s => s.presentRead line offset length) (read_waits (clearOut_atRest hrest) hno line offset length))
    case accepted =>
      have hreach {x : State} (h : u.acceptRead req = x) : Reaches c s x :=
        reaches_of_step rfl ((read_presented (clearOut_atRest hrest) hlanes hroom line offset length).trans (congrArg some h))
      have hv : v.port = s.port := by simp [v, u]
      have hpushed (y : State) (d : Option Decision) (stage : ReadStage) :
          (push y d stage).readOf tag = some { tag := tag, req := req, decision := d, stage := stage } :=
        readOf_setReads_append (r := { tag := tag, req := req, decision := d, stage := stage }) (freshTag_unused hroom)
      have hstaged (y : State) (d : Option Decision) (x : ReadStage) : (push y d .resolving).setStage tag x = push y d x :=
        setStage_setReads_append (r := { tag := tag, req := req, decision := d, stage := .resolving }) (freshTag_unused hroom) x
      refine ⟨fun hcross => hreach (acceptRead_crossing (s := u) hcross), fun hspan hpower => ?unconfigured,
        fun hspan hpower hwindow => hreach (acceptRead_beyond (s := u) hspan hpower hwindow),
        fun hspan hpower hwindow => ?decided⟩
      case unconfigured =>
        have hstart : u.acceptRead req = (push u none .resolving).resolveHazard tag := acceptRead_unconfigured (s := u) hspan hpower
        have hwaits (hhazard : s.hazard req.line = true) :=
          (resolveHazard_waits (hpushed u none .resolving) hhazard).trans (hstaged u none .waitingHazard)
        have hgoes {y : State} (hhazard : s.hazard req.line = false) (hy : Continues (push u none .resolving) tag req y) :=
          (resolveHazard_goesOn (hpushed u none .resolving) hhazard).trans (hy.resolveOverlay_eq (hpushed u none .resolving))
        exact ⟨fun hhazard => hreach (hstart.trans (hwaits hhazard)),
          fun bs hhazard ho => hreach (hstart.trans ((hgoes hhazard (.overlay bs ho)).trans (hstaged u none _))),
          fun hhazard ho => hreach (hstart.trans ((hgoes hhazard (.unconfigured ho hpower)).trans (hstaged u none _)))⟩
      case decided =>
        have hstart : u.acceptRead req = u.decideRead tag req := acceptRead_decided (s := u) hspan hpower hwindow
        have hpush (stage : ReadStage) : v.pushRead { tag := tag, req := req, decision := some d, stage := stage } =
            push v (some d) stage := by
          rw [State.pushRead, hv]
        have hresolves (haction : d.action ≠ .deny) : u.acceptRead req = (push v (some d) .resolving).resolveHazard tag := by
          rw [hstart, ← hpush]
          exact if_neg haction
        have hhazards : (push v (some d) .resolving).hazard req.line = s.hazard req.line := by
          have hwrite : (push v (some d) .resolving).port.write = s.port.write :=
            (congrArg Port.write hv : v.port.write = s.port.write)
          rw [State.hazard, hwrite]
          rfl
        refine ⟨fun haction => hreach ?_, fun haction hhazard => hreach ((hresolves haction).trans ?_),
          fun haction hhazard => ⟨Continues.total _ tag req, fun x hx => hreach ((hresolves haction).trans ?_)⟩⟩
        · rw [hstart, ← hpush]
          exact if_pos haction
        · exact (resolveHazard_waits (hpushed v (some d) .resolving) (hhazards.trans hhazard)).trans (hstaged v (some d) _)
        · exact (resolveHazard_goesOn (hpushed v (some d) .resolving) (hhazards.trans hhazard)).trans
            (hx.resolveOverlay_eq (hpushed v (some d) .resolving))

end Sys2Proof.Machine
end

section
/-! SUPPORT. The stages of a write request and its releases (R82, R83, R94 to R98, R166 to R168, R186). -/

namespace Sys2Proof.Machine

/-! ### The keyed line and its check field (R166) -/

theorem allBytes_eq_some_iff (l : List (Option Byte)) (bs : List Byte) : allBytes l = some bs ↔ l = bs.map some := by
  induction l generalizing bs with
  | nil => cases bs <;> simp [allBytes]
  | cons x l ih =>
    cases x with
    | none => cases bs <;> simp [allBytes]
    | some b => cases bs <;> simp [allBytes, ih, and_comm]

theorem keyedLine_eq_some_iff (key : List Byte) (req : WriteReq) (bs : List Byte) : keyedLine key req = some bs ↔
    req.offset = 0 ∧ req.bytes = bs.map some ∧ bs.length = 64 ∧ bs.take 8 = key := by
  unfold keyedLine
  by_cases hfull : req.offset = 0 ∧ req.bytes.length = 64
  case neg =>
    rw [if_neg hfull]
    refine ⟨nofun, fun ⟨hoffset, hbytes, hlength, _⟩ => absurd ⟨hoffset, ?_⟩ hfull⟩
    rw [hbytes, List.length_map, hlength]
  case pos =>
    rw [if_pos hfull]
    obtain ⟨hoffset, hlength⟩ := hfull
    split
    case h_1 bs' hbs' =>
      have hbytes := (allBytes_eq_some_iff _ _).mp hbs'
      have hbs : req.bytes = bs.map some ↔ bs' = bs := by
        rw [hbytes]
        exact (List.map_injective_iff.mpr (Option.some_injective _)).eq_iff
      have hsize : bs'.length = 64 := by rw [hbytes, List.length_map] at hlength; exact hlength
      rw [hbs]
      by_cases hkey : bs'.take 8 = key
      case pos =>
        rw [if_pos hkey, Option.some.injEq]
        exact ⟨fun h => ⟨hoffset, h, h ▸ hsize, h ▸ hkey⟩, fun ⟨_, h, _, _⟩ => h⟩
      case neg =>
        rw [if_neg hkey]
        exact ⟨nofun, fun ⟨_, h, _, hkey'⟩ => absurd (h ▸ hkey') hkey⟩
    case h_2 hnone =>
      refine ⟨nofun, fun ⟨_, hbytes, _, _⟩ => ?_⟩
      rw [(allBytes_eq_some_iff _ _).mpr hbytes] at hnone
      cases hnone

theorem checkHolds_iff (bs : List Byte) : checkHolds bs = true ↔
    bs.drop 62 = [(crc16 ((bs.drop 8).take 54)).extractLsb' 8 8, (crc16 ((bs.drop 8).take 54)).extractLsb' 0 8] :=
  beq_iff_eq

/-! ### The bytes that are arguments (R186, Table 11-4) -/

theorem byteAt_eq_of_take {a b : List Byte} {n i : Nat} (h : a.take n = b.take n) (hi : i < n) : byteAt a i = byteAt b i := by
  have hget := congrArg (fun l : List Byte => l[i]?) h
  simp only [List.getElem?_take, if_pos hi] at hget
  simp only [byteAt, List.getD_eq_getElem?_getD, hget]

theorem padTo_drop_eq {a b : List Byte} {n k m : Nat} (h : a.take m = b.take m) (ha : n + k ≤ a.length) (hb : n + k ≤ b.length)
    (hm : n + k ≤ m) : padTo n (a.drop k) = padTo n (b.drop k) := by
  have hcut {l : List Byte} (hl : n + k ≤ l.length) : padTo n (l.drop k) = ((l.take m).drop k).take n := by
    rw [padTo, List.take_append_of_le_length (by rw [List.length_drop]; omega), List.drop_take, List.take_take,
      Nat.min_eq_left (by omega)]
  rw [hcut ha, hcut hb, h]

theorem cmdProgramFuse_congr {x y z : Byte} {d e : List Byte} (s : State)
    (h : z.toNat ≤ 16 → padTo z.toNat d = padTo z.toNat e) : cmdProgramFuse x y z d s = cmdProgramFuse x y z e s := by
  unfold cmdProgramFuse
  split
  case h_1 => rfl
  case h_2 g _ =>
    split_ifs with hlock hspan
    · rfl
    · rfl
    · rw [h (by omega)]

theorem execCode_congr {room : Nat} {code : Byte} {a b : List Byte} {s : State} (ha : a.length = 53) (hb : b.length = 53)
    (h : a.take (argumentBytes code) = b.take (argumentBytes code)) : execCode room code a s = execCode room code b s := by
  have hbyte (i : Nat) (hi : i < argumentBytes code) : byteAt a i = byteAt b i := byteAt_eq_of_take h hi
  unfold execCode
  split
  case h_25 hcode =>
    simp only [argumentBytes, hcode] at h
    rw [byteAt_eq_of_take h (i := 0) (by decide), byteAt_eq_of_take h (i := 1) (by decide),
      byteAt_eq_of_take h (i := 2) (by decide)]
    exact cmdProgramFuse_congr s fun hcount => padTo_drop_eq h (by omega) (by omega) (by omega)
  all_goals
    rename_i hcode
    simp only [argumentBytes, hcode] at hbyte
    simp only [timingArg, ruleArg, policyArg, half, word, addr, hbyte, Nat.reduceLT, Nat.reduceAdd]

/-! ### Acceptance (R82, R83, R94, R95) -/

/-- A write lane that is closed or taken lets the request wait. -/
theorem write_waits {s : State} (h : s.atRest) (hno : s.port.lanesOpen = false ∨ s.port.write ≠ none) (req : WriteReq) :
    (s.presentWrite req).atRest := by
  obtain ⟨-, -, -, -, -, -, -, -, -, hread, -⟩ := (atRest_iff s).mp h
  have hnot : ¬ (s.presentWrite req).canAcceptWrite = true := by
    obtain hclosed | htaken := hno
    · simp [State.canAcceptWrite, State.presentWrite, hclosed]
    · cases hw : s.port.write with
      | none => exact absurd hw htaken
      | some w => simp [State.canAcceptWrite, State.presentWrite, hw]
  have hread' : ¬ (s.presentWrite req).canAcceptRead = true := fun hx => Bool.false_ne_true (hread.symm.trans hx)
  exact (settleOnce_waiting h rfl).trans ((if_neg hnot).trans (if_neg hread'))

section
variable {s : State} {req : WriteReq}

theorem accepted_eq (s : State) (req : WriteReq) :
    ({ req := req, accepted := s.now, hold := some (tickAfter s.now s.time.timing.holdLimit.toNat), stage := .taking,
       decision := none } : WriteInProgress) = s.accepted req := by
  rw [tickAfter_eq]
  rfl

theorem acceptWrite_badSpan (h : s.badSpan req = true) :
    s.acceptWrite req = (s.setWrite (some (s.accepted req))).refuseWrite (s.accepted req) .badSpan := by
  simp only [State.acceptWrite, accepted_eq]
  exact if_pos h

theorem acceptWrite_recognises (h : s.badSpan req = false) :
    s.acceptWrite req = (s.setWrite (some (s.accepted req))).recognise (s.accepted req) := by
  simp only [State.acceptWrite, accepted_eq]
  exact if_neg (Bool.eq_false_iff.mp h)

theorem recognise_ordinary {w : WriteInProgress} (h : s.control.enable = false ∨ keyedLine s.control.key w.req = none) :
    s.recognise w = s.powerStage w := by
  unfold State.recognise
  obtain hoff | hnone := h
  · exact if_neg (Bool.eq_false_iff.mp hoff)
  · rw [hnone, ite_self]

variable {w : WriteInProgress} {bs : List Byte} (hon : s.control.enable = true) (hkey : keyedLine s.control.key w.req = some bs)
include hon hkey

theorem recognise_checkFails (h : checkHolds bs = false) : s.recognise w = (s.raise .controlCheckFailed).powerStage w := by
  simp only [State.recognise, if_pos hon, hkey, h, Bool.false_eq_true, if_false]

theorem recognise_record (h : checkHolds bs = true) : s.recognise w = s.consumeRecord w bs := by
  simp only [State.recognise, if_pos hon, hkey, h, if_true]

end

/-! ### The end of the overlay at a record (R168, R171) -/

theorem endOverlay_some {s : State} {o : Overlay} (h : s.control.overlay = some o) :
    s.endOverlay = (s.withControl { s.control with overlay := none }).resolveAfresh Read.fromOverlay := by
  rw [State.endOverlay, h]

theorem withControl_noOverlay {s : State} (h : s.control.overlay = none) :
    s.withControl { s.control with overlay := none } = s := by
  obtain ⟨port, ⟨key, enable, overlay, softReset⟩⟩ := s
  cases h
  rfl

/-- Where no read holds the overlay's bytes its end touches no read. -/
theorem endOverlay_unread {s : State} (h : s.control.overlay = none ∨ s.port.reads.all (fun r => !r.fromOverlay) = true) :
    s.endOverlay = s.withControl { s.control with overlay := none } := by
  cases ho : s.control.overlay with
  | none => rw [State.endOverlay, ho, withControl_noOverlay ho]
  | some o =>
    rw [ho] at h
    exact (endOverlay_some ho).trans (resolveAfresh_none (s := s.withControl { s.control with overlay := none }) (h.resolve_left nofun))

/-! ### Releases (R98) -/

section
variable {s : State} {w : WriteInProgress} (hw : s.port.write = some w)
include hw

theorem releaseWrite_waking (hstage : w.stage = .held .waking) (hrun : s.power.st = .run) :
    (if s.canReleaseWrite then s.releaseWrite else s) = s.fenceStage w := by
  have hcan : s.canReleaseWrite = true := by simp only [State.canReleaseWrite, hw, hstage, hrun, decide_true]
  simp only [if_pos hcan, State.releaseWrite, hw, hstage]

theorem releaseWrite_committing (hstage : w.stage = .held .committing)
    (hover : ∀ i, s.staging.find (sectorOf w.req.line) = some i → (s.staging.entry i).isCommitting = false) :
    (if s.canReleaseWrite then s.releaseWrite else s) = s.stageWrite w := by
  have hcan : s.canReleaseWrite = true := by
    simp only [State.canReleaseWrite, hw, hstage, Staging.entryOf]
    cases hi : s.staging.find (sectorOf w.req.line) with
    | none => rfl
    | some i => simp [hover i hi]
  simp only [if_pos hcan, State.releaseWrite, hw, hstage]

theorem releaseWrite_noEntry (hstage : w.stage = .held .noEntry) (hplace : s.staging.place s.now ≠ none) :
    (if s.canReleaseWrite then s.releaseWrite else s) = s.stageWrite w := by
  have hcan : s.canReleaseWrite = true := by
    simp only [State.canReleaseWrite, hw, hstage]
    exact Option.isSome_iff_ne_none.mpr hplace
  simp only [if_pos hcan, State.releaseWrite, hw, hstage]

end

/-- Settles O38. -/
theorem writesTakeTheirStages : Obligations.WritesTakeTheirStages := by
  refine ⟨⟨keyedLine_eq_some_iff, checkHolds_iff, fun room code a b s => execCode_congr⟩,
    fun s line offset bytes g hrest => ?request, fun s => ?release⟩
  case request =>
    intro c req u w
    have hrest' : u.atRest := setGuard_atRest (clearOut_atRest hrest) g
    refine ⟨fun hno => ?waits, fun hready => ?accepted⟩
    case waits =>
      exact congrArg Host.Outcome.next (event_of_atRest
        (body := fun s => (s.setGuard g).presentWrite { line := line, offset := offset, bytes := bytes })
        (write_waits hrest' hno { line := line, offset := offset, bytes := bytes }))
    case accepted =>
      have hreach {x : State} (h : u.acceptWrite req = x) : Reaches c s x :=
        reaches_of_step rfl ((write_presented hrest' hready.lanes hready.free
          { line := line, offset := offset, bytes := bytes }).trans (congrArg some h))
      have hrecognised (hspan : s.badSpan req = false) : u.acceptWrite req = (u.setWrite (some w)).recognise w :=
        acceptWrite_recognises (s := u) hspan
      refine ⟨fun hspan => hreach (acceptWrite_badSpan (s := u) hspan), fun hspan hkey => ⟨Admits.total _ w, fun x hx => ?ordinary⟩,
        fun bs hspan hon hkey hcheck => ?fails, fun bs hspan hon hkey hcheck => ?record⟩
      case ordinary =>
        exact hreach ((hrecognised hspan).trans ((recognise_ordinary (s := u.setWrite (some w)) (w := w) hkey).trans hx.powerStage_eq))
      case fails =>
        intro v
        refine ⟨Admits.total v w, fun x hx => hreach ((hrecognised hspan).trans ?_)⟩
        exact (recognise_checkFails (s := u.setWrite (some w)) (w := w) hon hkey hcheck).trans hx.powerStage_eq
      case record =>
        intro ended executed
        have hrecord (y : State) (h : (u.setWrite (some { w with hold := none, stage := .control })).endOverlay = y) :
            Reaches c s (executed y) :=
          hreach ((hrecognised hspan).trans ((recognise_record (s := u.setWrite (some w)) (w := w) hon hkey hcheck).trans
            (congrArg executed h)))
        refine ⟨fun hunread => hrecord ended (endOverlay_unread (s := u.setWrite (some { w with hold := none, stage := .control })) hunread),
          fun o ho => ⟨ResolvesAfresh.exists_filter ended _, fun x hx => hrecord x ?_⟩⟩
        exact (endOverlay_some (s := u.setWrite (some { w with hold := none, stage := .control })) ho).trans
          (ResolvesAfresh.resolveAfresh_eq (s := ended) hx)
  case release =>
    refine ⟨fun w hw => ⟨fun hstage hrun => ⟨Decides.total _ w, fun x hx => ?waking⟩,
      fun hstage hover => ⟨Stages.total _ w, fun x hx => ?committing⟩, fun hstage hplace => ⟨Stages.total _ w, fun x hx => ?noEntry⟩⟩,
      fun hno => reaches_of_event rfl (if_neg (Bool.eq_false_iff.mp hno))⟩
    case waking => exact reaches_of_event rfl ((releaseWrite_waking (s := s.clearOut) hw hstage hrun).trans hx.fenceStage_eq)
    case committing =>
      exact reaches_of_event rfl ((releaseWrite_committing (s := s.clearOut) hw hstage hover).trans hx.stageWrite_eq)
    case noEntry => exact reaches_of_event rfl ((releaseWrite_noEntry (s := s.clearOut) hw hstage hplace).trans hx.stageWrite_eq)

end Sys2Proof.Machine
end

section
/-! SUPPORT. The timers outside the sequencer and the staging table (R99, R130, R131, R171): at a fixed tick, in which states each has not fallen due, and that every effect of an event keeps it so. -/

namespace Sys2Proof.Machine

/-! ### A timer just started is not due (R156) -/

theorem tickAfter_ne (n : Tick) {d : Nat} (hpos : 0 < d) (hlimit : d < 4294967296) : tickAfter n d ≠ n := by
  intro h
  have hd : BitVec.ofNat 32 d = 0#32 := by simpa [tickAfter] using h
  have hn := congrArg BitVec.toNat hd
  simp only [BitVec.toNat_ofNat, Nat.zero_mod] at hn
  omega

/-- A timer started with a setting that is not 0 (R158). -/
theorem tickAfter_half_ne (n : Tick) {x : Half} (hpos : 1 ≤ x.toNat) : tickAfter n x.toNat ≠ n :=
  tickAfter_ne n hpos (lt_trans x.isLt (by decide))

theorem startTimer_ne (n : Tick) (x : Half) : startTimer n x ≠ some n := by
  unfold startTimer
  split
  case isTrue => exact nofun
  case isFalse h =>
    have hx : 1 ≤ x.toNat := Nat.one_le_iff_ne_zero.mpr fun e => h (BitVec.eq_of_toNat_eq e)
    rw [← tickAfter_eq]
    exact fun e => tickAfter_half_ne n hx (Option.some.inj e)

/-- The settings that start a timer, or bound an operation, are not 0. -/
structure TimersStart (t : TimingSettings) : Prop where
  hold : 1 ≤ t.holdLimit.toNat
  drain : 1 ≤ t.drainLimit.toNat
  reply : 1 ≤ t.replyLifetime.toNat
  program : 1 ≤ t.programLimit.toNat
  erase : 1 ≤ t.eraseLimit.toNat
  suspend : 1 ≤ t.suspendLimit.toNat

theorem timersStart_of_rows {t : TimingSettings} (h : (timingRows t).all id = true) : TimersStart t := by
  simp only [timingRows, List.all_cons, List.all_nil, id_eq, Bool.and_eq_true, decide_eq_true_eq] at h
  obtain ⟨-, -, -, hhold, -, -, hdrain, hreply, hprogram, herase, hsuspend, -⟩ := h
  exact ⟨hhold, hdrain, hreply, hprogram, herase, hsuspend⟩

/-! ### The tick and the settings -/

/-- The tick is `n`, and every timing setting lies in its range. -/
structure State.At (n : Tick) (s : State) : Prop where
  now : s.now = n
  settings : (timingRows s.time.timing).all id = true

theorem State.At.frame {n : Tick} {s t : State} (h : s.At n) (e : t.time = s.time) : t.At n := by
  obtain ⟨hnow, hsettings⟩ := h
  exact ⟨(congrArg Timebase.tick e).trans hnow, by rw [e]; exact hsettings⟩

theorem State.At.started {n : Tick} {s : State} (h : s.At n) : TimersStart s.time.timing := timersStart_of_rows h.settings

theorem at_unitLaw (n : Tick) : UnitLaw (State.At n) where
  frame h e := by
    simp only [State.units, Prod.mk.injEq] at e
    obtain ⟨-, -, -, -, htime, -, -⟩ := e
    exact h.frame htime
  put s q u r h := h.frame (by simp)
  release s q h := h.frame rfl
  reserve s q _ h := h.frame rfl
  latch s i r h := h.frame rfl
  stale s q h := h.frame (by simp)
  urgent s d h := h.frame (by simp)
  guard s g h := h.frame rfl
  setTiming s t h := by
    rw [cmdSetTiming_eq]
    split
    case isTrue ht => exact ⟨h.now, ht⟩
    case isFalse => exact h
  setRule s a h := h.frame (by simp)
  setDefault s a c h := h.frame (by simp)
  setFence s a c d h := h.frame (by simp)
  setLock s l h := h.frame (by simp)
  setQueue s q m w h := h.frame (by simp)
  fetchCapture s room q m h := h.frame (by simp)
  ackCapture s q x h := h.frame (by simp)
  releaseSlot s i h := h.frame (by simp)
  lockFuse s g h := h.frame (by simp)
  addFuses s g k d h := h.frame rfl
  subTick s _ h := ⟨h.now, h.settings⟩
  softReset s h := ⟨h.now, show (timingRows TimingSettings.default).all id = true by decide⟩

/-! ### The stale timers (R130, R131) -/

namespace CaptureQueue

variable {n : Tick} {x : CaptureQueue}

theorem append_staleExpiry_ne (stale : Half) (r : CaptureRecord) (h : x.staleExpiry ≠ some n) :
    (x.append n stale r).staleExpiry ≠ some n := by
  simp only [CaptureQueue.append]
  split
  case isTrue => exact startTimer_ne n stale
  case isFalse => exact h

theorem put_staleExpiry_ne (p : QueueName) (stale : Half) (u : Bool) (r : CaptureRecord) (h : x.staleExpiry ≠ some n) :
    (x.put p n stale u r).1.staleExpiry ≠ some n := by
  unfold CaptureQueue.put
  split_ifs
  · exact append_staleExpiry_ne (x := { x with reserved := false }) stale r h
  · exact append_staleExpiry_ne stale r h
  · exact h
  · exact h

theorem remove_staleExpiry_ne (stale : Half) (k : Nat) (h : x.staleExpiry ≠ some n) :
    (x.remove n stale k).staleExpiry ≠ some n := by
  unfold CaptureQueue.remove
  split
  case isTrue => exact h
  case isFalse =>
    dsimp only
    split
    case isTrue => exact nofun
    case isFalse => exact startTimer_ne n stale

end CaptureQueue

/-- The stale timer of a queue is not due at a tick. -/
def CaptureUnit.NotStale (c : CaptureUnit) (n : Tick) (q : QueueName) : Prop := (c.queue q).staleExpiry ≠ some n

namespace CaptureUnit.NotStale

variable {c : CaptureUnit} {n : Tick} {q : QueueName}

/-- A change of one queue, whose stale timer is kept, stopped or started anew. -/
theorem setQueue (h : c.NotStale n q) (p : QueueName) {x : CaptureQueue}
    (hx : (c.queue p).staleExpiry ≠ some n → x.staleExpiry ≠ some n) : (c.setQueue p x).NotStale n q := by
  cases p <;> cases q
  case a.a => exact hx h
  case b.b => exact hx h
  case a.b => exact h
  case b.a => exact h

theorem initial : CaptureUnit.initial.NotStale n q := by cases q <;> exact nofun

end CaptureUnit.NotStale

theorem putRecord_notStale {n : Tick} {q : QueueName} {s : State} (hnow : s.now = n) (h : s.capture.NotStale n q) (p : QueueName)
    (u : Bool) (r : CaptureRecord) : (s.putRecord p u r).capture.NotStale n q := by
  subst hnow
  have e : (s.putRecord p u r).capture = s.capture.setQueue p
      ((s.capture.queue p).put p s.now (staleLimit s.time.timing p) u r).1 := by simp [State.putRecord]
  rw [e]
  exact h.setQueue p (CaptureQueue.put_staleExpiry_ne p _ u r)

theorem expireStale_notStale {n : Tick} {s : State} (hnow : s.now = n) (q : QueueName) :
    (s.expireStale q).capture.NotStale n q := by
  subst hnow
  cases q <;> exact startTimer_ne s.now _

/-- A queue whose stale timer is not due, at the tick. -/
theorem notStale_unitLaw (n : Tick) (q : QueueName) : UnitLaw fun s => s.At n ∧ s.capture.NotStale n q := by
  have l := at_unitLaw n
  have same {s t : State} (e : t.capture = s.capture) (h : s.capture.NotStale n q) : t.capture.NotStale n q := by rwa [e]
  exact {
    frame := fun h e => ⟨l.frame h.1 e, same (congrArg (·.1) e) h.2⟩
    put := fun s p u r h => ⟨l.put s p u r h.1, putRecord_notStale h.1.now h.2 p u r⟩
    release := fun s p h => ⟨l.release s p h.1, h.2.setQueue p id⟩
    reserve := fun s p c h => ⟨l.reserve s p c h.1, h.2.setQueue p id⟩
    latch := fun s i r h => ⟨l.latch s i r h.1, h.2⟩
    stale := fun s p h => by
      obtain ⟨⟨hnow, hsettings⟩, hq⟩ := h
      subst hnow
      exact ⟨l.stale s p ⟨rfl, hsettings⟩, hq.setQueue p fun _ => startTimer_ne s.now _⟩
    urgent := fun s d h => ⟨l.urgent s d h.1, same (by simp) h.2⟩
    guard := fun s g h => ⟨l.guard s g h.1, h.2⟩
    setTiming := fun s t h => ⟨l.setTiming s t h.1, same (by simp) h.2⟩
    setRule := fun s a h => ⟨l.setRule s a h.1, same (by simp) h.2⟩
    setDefault := fun s a c h => ⟨l.setDefault s a c h.1, same (by simp) h.2⟩
    setFence := fun s a c d h => ⟨l.setFence s a c d h.1, same (by simp) h.2⟩
    setLock := fun s x h => ⟨l.setLock s x h.1, same (by simp) h.2⟩
    setQueue := fun s p m w h => by
      refine ⟨l.setQueue s p m w h.1, ?_⟩
      simp only [cmdSetQueue]
      split
      case h_1 p' m' _ _ =>
        split
        case isTrue => exact h.2
        case isFalse => exact h.2.setQueue p' id
      case h_2 => exact h.2
    fetchCapture := fun s room p m h => by
      refine ⟨l.fetchCapture s room p m h.1, ?_⟩
      simp only [cmdFetchCapture]
      split
      case h_1 => exact h.2
      case h_2 p' _ =>
        split
        case isTrue => exact h.2
        case isFalse => exact h.2.setQueue p' id
    ackCapture := fun s p x h => by
      refine ⟨l.ackCapture s p x h.1, ?_⟩
      simp only [cmdAckCapture, h.1.now]
      split
      case h_1 => exact h.2
      case h_2 p' _ =>
        split
        case h_1 => exact h.2
        case h_2 => exact h.2.setQueue p' (CaptureQueue.remove_staleExpiry_ne _ _)
    releaseSlot := fun s i h => by
      refine ⟨l.releaseSlot s i h.1, ?_⟩
      simp only [cmdReleaseSlot]
      split
      case isTrue => exact h.2
      case isFalse => exact h.2
    lockFuse := fun s g h => ⟨l.lockFuse s g h.1, same (by simp) h.2⟩
    addFuses := fun s g k d h => ⟨l.addFuses s g k d h.1, h.2⟩
    subTick := fun s x h => ⟨l.subTick s x h.1, h.2⟩
    softReset := fun s h => ⟨l.softReset s h.1, .initial⟩ }

/-! ### The hold timer (R94, R99) -/

/-- A held write's hold timer is not due at a tick. -/
def State.NoHoldDue (n : Tick) (s : State) : Prop := ∀ w c, s.port.write = some w → w.stage = .held c → w.hold ≠ some n

theorem State.NoHoldDue.step {n : Tick} {s t : State} (l : s.LaneStep False t) (h : s.NoHoldDue n) : t.NoHoldDue n := by
  intro x c hx hc
  obtain ⟨w, hw, -, hheld⟩ := l.write x hx
  obtain ⟨⟨c', hc', -⟩, hhold⟩ := hheld c hc
  exact hhold ▸ h w c' hw hc'

theorem noHoldDue_steady (n : Tick) : Steady fun s => s.At n ∧ s.NoHoldDue n := by
  refine laneLaw_steady (at_unitLaw n).steady .step (fun _ _ h => h) (fun s h _ => ?read) fun s hat _ hfree => ?write
  case read =>
    obtain ⟨-, hw, -⟩ := s.acceptNextRead_lanes
    intro w c e
    exact h w c (hw ▸ e)
  case write =>
    intro w c hw hc
    obtain ⟨req, -, -, hleft⟩ := s.acceptNextWrite_lanes hfree |>.1 w hw
    obtain ⟨-, hhold⟩ := hleft w rfl
    rw [hhold c hc, State.accepted, ← tickAfter_eq, ← hat.now]
    exact fun e => tickAfter_half_ne s.now hat.started.hold (Option.some.inj e)

theorem holdExpired_noHoldDue (s : State) : s.holdExpired.NoHoldDue s.now := by
  by_cases h : s.NoHoldDue s.now
  case pos => exact .step s.holdExpired_laneStep h
  case neg =>
    simp only [State.NoHoldDue, not_forall, not_not] at h
    obtain ⟨w, c, hw, hc, hhold⟩ := h
    rw [holdExpired_due hw hc hhold]
    intro x _ hx
    exact absurd ((State.refuseWrite_port ..).1.symm.trans hx) nofun

/-! ### The reply lifetime (R171) -/

/-- The reply overlay stays as it is, or ends. -/
def State.KeepsOrEnds (s t : State) : Prop := t.control.overlay = s.control.overlay ∨ t.control.overlay = none

namespace State

variable {s t u : State}

theorem KeepsOrEnds.of_control (h : t.control = s.control) : s.KeepsOrEnds t := .inl (congrArg Control.overlay h)

theorem KeepsOrEnds.refl (s : State) : s.KeepsOrEnds s := .inl rfl

theorem KeepsOrEnds.trans (h : s.KeepsOrEnds t) (h' : t.KeepsOrEnds u) : s.KeepsOrEnds u := by
  obtain h' | h' := h'
  · exact h.imp h'.trans h'.trans
  · exact .inr h'

/-- What came before left the control unit as it was. -/
theorem KeepsOrEnds.after (h : t.KeepsOrEnds u) (hc : t.control = s.control) : s.KeepsOrEnds u := (of_control hc).trans h

theorem endOverlay_overlay (s : State) : s.endOverlay.control.overlay = none := by rw [endOverlay_control]

theorem overlayWritten_overlay (s : State) (line : Addr) : s.KeepsOrEnds (s.overlayWritten line) := by
  unfold overlayWritten
  split
  case h_1 => exact .refl s
  case h_2 =>
    split
    case isTrue => exact .inr s.endOverlay_overlay
    case isFalse => exact .refl s

theorem landWrite_overlay (s : State) (w : WriteInProgress) (i : Nat) (e : Entry) : s.KeepsOrEnds (s.landWrite w i e) := by
  unfold landWrite answerWrite
  exact (overlayWritten_overlay _ _).after (by simp)

theorem stageWrite_overlay (s : State) (w : WriteInProgress) : s.KeepsOrEnds (s.stageWrite w) := by
  obtain ⟨x, hx⟩ := Stages.total s w
  rw [hx.stageWrite_eq]
  cases hx with
  | merge i e => exact s.landWrite_overlay w i e
  | allocate i => exact (landWrite_overlay _ w i _).after rfl
  | faulted => exact .of_control (by simp)
  | _ => exact .of_control rfl

theorem fenceStage_overlay (s : State) (w : WriteInProgress) : s.KeepsOrEnds (s.fenceStage w) := by
  obtain ⟨x, hx⟩ := Decides.total s w
  have hd : (s.decided w).control = s.control := by simp [decided]
  rw [hx.fenceStage_eq]
  cases hx with
  | noSpace => exact .of_control hd
  | strict q x _ _ _ _ hx => exact hx.stageWrite_eq ▸ (stageWrite_overlay _ _).after hd
  | plain x _ _ hx => exact hx.stageWrite_eq ▸ (stageWrite_overlay _ _).after hd
  | _ => exact .of_control (by simpa using hd)

theorem powerStage_overlay (s : State) (w : WriteInProgress) : s.KeepsOrEnds (s.powerStage w) := by
  obtain ⟨x, hx⟩ := Admits.total s w
  rw [hx.powerStage_eq]
  cases hx with
  | run x _ hx => exact hx.fenceStage_eq ▸ s.fenceStage_overlay w
  | drain x _ _ hx => exact hx.fenceStage_eq ▸ (fenceStage_overlay _ w).after (by simp)
  | abort x _ _ hx => exact hx.fenceStage_eq ▸ (fenceStage_overlay _ w).after (by simp)
  | _ => exact .of_control (by simp [heldFor])

theorem releaseWrite_overlay (s : State) : s.KeepsOrEnds s.releaseWrite := by
  unfold releaseWrite
  split
  case h_1 => exact .refl s
  case h_2 w _ =>
    split
    · exact s.fenceStage_overlay w
    · exact s.stageWrite_overlay w
    · exact s.stageWrite_overlay w
    · exact .refl s

theorem execCode_overlay (s : State) (room : Nat) (code : Byte) (a : List Byte) :
    (execCode room code a s).1.control.overlay = s.control.overlay := by
  unfold execCode
  split
  case h_3 =>
    simp only [cmdSoftReset]
    split
    case h_1 => rfl
    case h_2 =>
      split
      case isTrue => rfl
      case isFalse =>
        have ha : s.awaitReset.control = s.control := by unfold awaitReset; split <;> rfl
        rw [acceptSoftReset_control, ha]
  all_goals simp

/-- A control record ends the overlay there is (R168). -/
theorem consumeRecord_overlay (s : State) (w : WriteInProgress) (bs : List Byte) :
    (s.consumeRecord w bs).control.overlay = none := by
  simp [consumeRecord, execCode_overlay]

theorem recognise_overlay (s : State) (w : WriteInProgress) : s.KeepsOrEnds (s.recognise w) := by
  unfold recognise
  split
  case isTrue =>
    split
    case h_1 =>
      split
      case isTrue => exact .inr (s.consumeRecord_overlay w _)
      case isFalse => exact (powerStage_overlay _ w).after rfl
    case h_2 => exact s.powerStage_overlay w
  case isFalse => exact s.powerStage_overlay w

theorem acceptNextWrite_overlay (s : State) : s.KeepsOrEnds s.acceptNextWrite := by
  unfold acceptNextWrite
  split
  case h_1 => exact .refl s
  case h_2 =>
    simp only [acceptWrite]
    split
    case isTrue => exact .of_control (by simp)
    case isFalse => exact (recognise_overlay _ _).after rfl

theorem softResetEffect_overlay (s : State) : s.softResetEffect.control.overlay = none := by
  simp only [softResetEffect]
  split_ifs <;> simp [softResetValues]

theorem overlayExpired_overlay (s : State) : s.KeepsOrEnds s.overlayExpired := by
  unfold overlayExpired
  split
  case h_1 =>
    split
    case isTrue => exact .inr s.endOverlay_overlay
    case isFalse => exact .refl s
  case h_2 => exact .refl s

/-- The reply placed lives from its tick (R170, R171). -/
theorem placeReply_overlay (s : State) : s.KeepsOrEnds s.placeReply ∨
    ∀ o, s.placeReply.control.overlay = some o → o.expiry = tickAfter s.now s.time.timing.replyLifetime.toNat := by
  unfold placeReply
  split
  case h_1 =>
    split
    case h_1 =>
      refine .inr fun o ho => ?_
      simp only [answerControl_frame, withControl_control] at ho
      cases ho
      rfl
    case h_2 => exact .inl (.refl s)
  case h_2 => exact .inl (.refl s)

/-- The reply overlay's lifetime is not over at a tick. -/
def NoReplyDue (n : Tick) (s : State) : Prop := ∀ o, s.control.overlay = some o → o.expiry ≠ n

theorem NoReplyDue.step {n : Tick} (h : s.NoReplyDue n) (k : s.KeepsOrEnds t) : t.NoReplyDue n := by
  intro o ho
  obtain e | e := k
  · exact h o (e ▸ ho)
  · exact absurd (e.symm.trans ho) nofun

end State

theorem noReplyDue_steady (n : Tick) : Steady fun s => s.At n ∧ s.NoReplyDue n := by
  have q := (at_unitLaw n).steady
  have same {s t : State} (e : t.control = s.control) (h : s.NoReplyDue n) : t.NoReplyDue n := h.step (.of_control e)
  exact {
    clearOut := fun s h => ⟨q.clearOut s h.1, h.2⟩
    pending := fun s x h => ⟨q.pending s x h.1, h.2⟩
    guard := fun s g h => ⟨q.guard s g h.1, h.2⟩
    presentRead := fun s line o k h => ⟨q.presentRead s line o k h.1, h.2⟩
    presentWrite := fun s req h => ⟨q.presentWrite s req h.1, h.2⟩
    softReset := fun s h c => ⟨q.softReset s h.1 c, h.2.step (.inr s.softResetEffect_overlay)⟩
    release := fun s h c => ⟨q.release s h.1 c, h.2.step s.releaseWrite_overlay⟩
    hazards := fun s h => ⟨q.hazards s h.1, same (by simp) h.2⟩
    withdraw := fun s h => ⟨q.withdraw s h.1, same (by simp) h.2⟩
    grant := fun s h c => ⟨q.grant s h.1 c, same (by simp) h.2⟩
    answer := fun s h c => ⟨q.answer s h.1 c, same (by simp) h.2⟩
    drain := fun s h c => ⟨q.drain s h.1 c, same (by simp) h.2⟩
    safe := fun s h c => ⟨q.safe s h.1 c, same (by simp) h.2⟩
    reply := fun s h c => by
      refine ⟨q.reply s h.1 c, ?_⟩
      obtain hk | hplaced := s.placeReply_overlay
      · exact h.2.step hk
      · intro o ho
        rw [hplaced o ho, ← h.1.now]
        exact tickAfter_half_ne s.now h.1.started.reply
    read := fun s h c => ⟨q.read s h.1 c, same (by simp) h.2⟩
    write := fun s h c => ⟨q.write s h.1 c, h.2.step s.acceptNextWrite_overlay⟩
    completeRead := fun s bytes h => ⟨q.completeRead s bytes h.1, same (by simp) h.2⟩
    pollStatus := fun s st h => ⟨q.pollStatus s st h.1, same (by simp) h.2⟩
    deferred := fun s h => ⟨q.deferred s h.1, same (by simp) h.2⟩
    suspendLimit := fun s st h => ⟨q.suspendLimit s st h.1, same (by simp) h.2⟩
    timeLimit := fun s h => ⟨q.timeLimit s h.1, same (by simp) h.2⟩
    wakeEnd := fun s st h => ⟨q.wakeEnd s st h.1, same (by simp) h.2⟩
    startupLimit := fun s h => ⟨q.startupLimit s h.1, same (by simp) h.2⟩
    hold := fun s h => ⟨q.hold s h.1, same (by simp) h.2⟩
    idle := fun s i h => ⟨q.idle s i h.1, same (by simp) h.2⟩
    age := fun s i h => ⟨q.age s i h.1, same (by simp) h.2⟩
    stale := fun s p h => ⟨q.stale s p h.1, same (by simp) h.2⟩
    drainExpired := fun s h => ⟨q.drainExpired s h.1, same (by simp) h.2⟩
    overlay := fun s h => ⟨q.overlay s h.1, h.2.step s.overlayExpired_overlay⟩
    tickPoll := fun s st h => ⟨q.tickPoll s st h.1, same (by simp) h.2⟩
    subTick := fun s x h => ⟨q.subTick s x h.1, h.2⟩
    draw := fun s h => ⟨q.draw s h.1, h.2⟩
    fuses := fun s failed h => ⟨q.fuses s failed h.1,
      same (by simp only [State.completeFuses]; (repeat' split) <;> simp) h.2⟩
    high := fun s h => ⟨q.high s h.1, same (by simp) h.2⟩
    low := fun s h => ⟨q.low s h.1, same (by simp) h.2⟩ }

theorem overlayExpired_noReplyDue (s : State) : s.overlayExpired.NoReplyDue s.now := by
  by_cases h : s.NoReplyDue s.now
  case pos => exact h.step s.overlayExpired_overlay
  case neg =>
    simp only [State.NoReplyDue, not_forall, not_not] at h
    obtain ⟨o, ho, he⟩ := h
    have hend : s.overlayExpired = s.endOverlay := by simp only [State.overlayExpired, ho, he, if_true]
    intro x hx
    exact absurd ((congrArg (·.control.overlay) hend).trans s.endOverlay_overlay |>.symm.trans hx) nofun

end Sys2Proof.Machine
end

section
/-! SUPPORT. The timers of the sequencer, the power controller and the staging table (R31 to R34, R68 to R70, R78, R144, R183): at a fixed tick, in which states each has not fallen due, and that every change of these blocks keeps it so. -/

namespace Sys2Proof.Machine

/-! ### The sequencer and the power controller -/

/-- No wait of the sequencer ends at a tick, and its operation is below its time limit. -/
def SeqState.NotDue (n : Tick) : SeqState → Prop
  | .waking t => t ≠ n
  | .startupWait t _ => t ≠ n
  | .suspending op t => t ≠ n ∧ op.busyTicks < op.timeLimit
  | .busy op => op.busyTicks < op.timeLimit
  | .suspended op _ => op.busyTicks < op.timeLimit
  | .resuming op => op.busyTicks < op.timeLimit
  | .idle => True
  | .reading _ => True
  | .stalled => True
  | .asleep => True

namespace SeqState

variable {n : Tick} {x : SeqState} {op : FlashOp}

theorem NotDue.below (h : x.NotDue n) (hop : x.operation? = some op) : op.busyTicks < op.timeLimit := by
  cases x with
  | busy => cases hop; exact h
  | suspending => cases hop; exact h.2
  | suspended => cases hop; exact h
  | resuming => cases hop; exact h
  | _ => cases hop

theorem notDue_of_operation (hop : x.operation? = some op) (hx : ∀ o u, x ≠ .suspending o u)
    (h : op.busyTicks < op.timeLimit) : x.NotDue n := by
  cases x with
  | suspending o u => exact absurd rfl (hx o u)
  | busy => cases hop; exact h
  | suspended => cases hop; exact h
  | resuming => cases hop; exact h
  | _ => cases hop

theorem notDue_iff : x.NotDue n ↔ x ≠ .waking n ∧ (∀ r, x ≠ .startupWait n r) ∧ (∀ o, x ≠ .suspending o n) ∧
    ∀ op, x.operation? = some op → op.busyTicks < op.timeLimit := by
  constructor
  · intro h
    refine ⟨?_, fun r => ?_, fun o => ?_, fun op => h.below⟩
    · rintro rfl
      exact h rfl
    · rintro rfl
      exact h rfl
    · rintro rfl
      exact h.1 rfl
  · rintro ⟨hwake, hstartup, hsuspend, hlimit⟩
    cases x with
    | waking t => exact fun e => hwake (e ▸ rfl)
    | startupWait t r => exact fun e => hstartup r (e ▸ rfl)
    | suspending op t => exact ⟨fun e => hsuspend op (e ▸ rfl), hlimit op rfl⟩
    | busy op => exact hlimit op rfl
    | suspended op l => exact hlimit op rfl
    | resuming op => exact hlimit op rfl
    | _ => trivial

end SeqState

/-- The changes of the drive, all of them. -/
def anyDrive : DriveMode := { strict := False, sleeps := True }

namespace Drive

/-- The resume spacing lies in its range (R79). -/
def Spaced (d : Drive) : Prop := d.seq.policy.resumeSpacing ≤ 255

/-- No deferred suspension falls due at a tick, under a spacing in its range (R68). -/
structure NotDeferred (n : Tick) (d : Drive) : Prop where
  spaced : d.Spaced
  deferred : d.seq.deferred ≠ some n

/-- No drain falls due at a tick (R144). -/
def NoDrainDue (n : Tick) (d : Drive) : Prop := d.power.st = .drain → d.power.drainExpiry ≠ some n

variable {m : DriveMode} {n : Tick} {t : TimingSettings} {d d' : Drive}

theorem Spaced.step (h : d.Spaced) (s : DriveStep m n t d d') : d'.Spaced := by
  cases s with
  | flashPolicy p hp => exact hp
  | reset => exact show 10 ≤ 255 by decide
  | _ => exact h

theorem notDue_step (ht : TimersStart t) (h : d.seq.st.NotDue n) (s : DriveStep m n t d d') : d'.seq.st.NotDue n := by
  cases s with
  | suspend op k hb =>
    rw [hb] at h
    exact ⟨tickAfter_ne n ht.suspend (lt_trans t.suspendLimit.isLt (by decide)), h⟩
  | waking k hpos hlimit => exact tickAfter_ne n hpos (lt_trans hlimit (by decide))
  | startupWait r => exact tickAfter_ne n (by decide) (by decide)
  | start op limit hlimit =>
    obtain rfl | rfl := hlimit
    · exact ht.program
    · exact ht.erase
  | goesOn op op' x hop hx hns hb hl => exact SeqState.notDue_of_operation hx hns (hb ▸ hl ▸ h.below hop)
  | reset x p hx =>
    obtain rfl | rfl := hx
    · trivial
    · trivial
  | idle | stalled | asleep | reading | fill => trivial
  | _ => exact h

/-- A suspension deferred is deferred past the tick, for the spacing has not passed (R68). -/
theorem deferred_ne {x : Tick} (hs : d.Spaced) (h : ¬ d.seq.policy.resumeSpacing ≤ elapsed n x) :
    tickAfter x d.seq.policy.resumeSpacing ≠ n := by
  intro e
  refine h (le_of_eq ?_)
  have hlt : d.seq.policy.resumeSpacing < 4294967296 := lt_of_le_of_lt hs (by decide)
  have hsub (b : Tick) : x + b - x = b := add_sub_cancel_left x b
  rw [← e, elapsed, tickAfter, hsub, BitVec.toNat_ofNat, Nat.mod_eq_of_lt hlt]

theorem NotDeferred.step (h : d.NotDeferred n) (s : DriveStep m n t d d') : d'.NotDeferred n := by
  refine ⟨h.spaced.step s, ?_⟩
  cases s with
  | defer x hx => exact fun e => deferred_ne h.spaced hx (Option.some.inj e)
  | suspend | undefer | reset => exact nofun
  | _ => exact h.deferred

theorem NoDrainDue.step (ht : TimersStart t) (h : d.NoDrainDue n) (s : DriveStep m n t d d') : d'.NoDrainDue n := by
  cases s with
  | power x _ hx => exact fun e => absurd e hx
  | drain => exact fun _ e => tickAfter_half_ne n ht.drain (Option.some.inj e)
  | drained => exact nofun
  | sleep => exact nofun
  | reset x p _ _ hp => exact fun e => absurd e hp
  | _ => exact h

end Drive

section
variable (n : Tick)

/-- A law of the drive at a tick, that each change of the drive under settings in range keeps. -/
theorem driveAt_steady {T : Drive → Prop} (h : ∀ t d d', TimersStart t → T d → DriveStep anyDrive n t d d' → T d') :
    Steady fun s => s.At n ∧ T s.drive := by
  refine driveLaw_steady (m := anyDrive) (at_unitLaw n).steady trivial (fun s hs d d' hd st => ?_) fun hm => hm.elim
  exact h s.time.timing d d' hs.started hd (hs.now ▸ st)

theorem spaced_steady : Steady fun s => s.At n ∧ s.drive.Spaced := driveAt_steady n fun _ _ _ _ => .step

theorem seqNotDue_steady : Steady fun s => s.At n ∧ s.drive.seq.st.NotDue n :=
  driveAt_steady n (T := fun d => d.seq.st.NotDue n) fun _ _ _ => Drive.notDue_step

theorem notDeferred_steady : Steady fun s => s.At n ∧ s.drive.NotDeferred n := driveAt_steady n fun _ _ _ _ => .step

theorem noDrainDue_steady : Steady fun s => s.At n ∧ s.drive.NoDrainDue n := driveAt_steady n fun _ _ _ => .step

end

/-! ### The entries of the staging table (R31, R33) -/

/-- The two timers of an entry. -/
inductive EntryTimer where
  | idle | age

/-- The expiry tick of an entry's timer, while it runs. -/
def Entry.expiry (e : Entry) : EntryTimer → Option Tick
  | .idle => e.idleExpiry
  | .age => e.ageExpiry

section
variable {n : Tick} {k : EntryTimer} {R : Bounds} {t : TimingSettings}

theorem mergeOpen_expiry_ne (off : Nat) (bytes : List (Option Byte)) (d : Sector) {age : Option Tick}
    (h : k = .age → age ≠ some n) :
    (mergeOpen n t off bytes d age).expiry k ≠ some n := by
  cases k with
  | idle =>
    simp only [mergeOpen]
    split_ifs <;> exact startTimer_ne n t.idleClose
  | age =>
    simp only [mergeOpen]
    split_ifs
    · exact h rfl
    · exact startTimer_ne n t.ageClose
    · exact nofun

theorem mergeEntry_expiry_ne {off : Nat} {bytes : List (Option Byte)} {e e' : Entry} (h : e.expiry k ≠ some n)
    (he : mergeEntry n t off bytes e = some e') : e'.expiry k ≠ some n := by
  cases e with
  | filling d f =>
    cases he
    cases k with
    | idle => exact startTimer_ne n t.idleClose
    | age => exact h
  | opened d tm =>
    cases he
    refine mergeOpen_expiry_ne off bytes d fun hk => ?_
    subst hk
    exact h
  | clean d =>
    cases he
    exact mergeOpen_expiry_ne off bytes d fun _ => nofun
  | closed d c =>
    cases he
    cases k <;> exact nofun
  | _ => cases he

theorem EntryStep.expiry_ne {e e' : Entry} (h : e.expiry k ≠ some n) (s : EntryStep R n t e e') : e'.expiry k ≠ some n := by
  cases s with
  | touch => cases e <;> exact h
  | mark => cases k <;> exact h
  | merge off bytes _ _ _ he => exact mergeEntry_expiry_ne h he
  | store p bytes => cases e <;> exact h
  | filled d f =>
    cases k with
    | idle => exact h
    | age =>
      simp only [filledEntry, Entry.expiry, Entry.ageExpiry]
      split
      case isTrue => exact h
      case isFalse => exact nofun
  | idlePending =>
    cases k with
    | idle => exact nofun
    | age => exact h
  | agePending =>
    cases k with
    | idle => exact h
    | age => exact nofun
  | clean | progress | committed | faulted => cases k <;> exact nofun

/-- An entry's timer is not due at a tick. -/
def Staging.EntryNotDue (g : Staging) (n : Tick) (k : EntryTimer) (i : Nat) : Prop := (g.entry i).expiry k ≠ some n

/-- A change of one entry, whose timer it does not let fall due. -/
theorem Staging.EntryNotDue.setEntry {g : Staging} {i : Nat} (h : g.EntryNotDue n k i) (j : Nat) {e : Entry}
    (he : (g.entry j).expiry k ≠ some n → e.expiry k ≠ some n) : (g.setEntry j e).EntryNotDue n k i := by
  unfold EntryNotDue
  by_cases hij : i = j
  case pos =>
    subst hij
    by_cases hlen : i < g.entries.length
    case pos =>
      rw [entry_setEntry_self e hlen]
      exact he h
    case neg =>
      rw [setEntry_of_le e (Nat.le_of_not_lt hlen)]
      exact h
  case neg =>
    rw [entry_setEntry_ne e hij]
    exact h

theorem TableStep.entryNotDue {g g' : Staging} {i : Nat} (h : g.EntryNotDue n k i) (s : TableStep R n t g g') :
    g'.EntryNotDue n k i := by
  have stopped {j : Nat} {e : Entry} (he : e.expiry .idle = none ∧ e.expiry .age = none) :
      (g.setEntry j e).EntryNotDue n k i := by
    refine h.setEntry j fun _ => ?_
    cases k with
    | idle => exact he.1 ▸ nofun
    | age => exact he.2 ▸ nofun
  cases s with
  | entry j e hs => exact h.setEntry j fun hj => hs.expiry_ne hj
  | close j d x c => exact stopped (e := .closed d c) ⟨rfl, rfl⟩
  | retryFault j d => exact stopped (e := .closed d .retry) ⟨rfl, rfl⟩
  | discard j => exact stopped ⟨rfl, rfl⟩
  | allocate j m off bytes =>
    refine h.setEntry j fun _ => ?_
    cases k with
    | idle => exact startTimer_ne n t.idleClose
    | age => exact startTimer_ne n t.ageClose
  | start j rest d c p => exact stopped (e := .committing d c p) ⟨rfl, rfl⟩
  | skip j rest d c => exact stopped (e := uncommittedEntry n d) ⟨rfl, rfl⟩
  | drop => exact h
  | count => exact h
  | reset =>
    unfold Staging.EntryNotDue
    rw [Staging.initial_entry]
    cases k <;> exact nofun

theorem entryNotDue_steady (n : Tick) (k : EntryTimer) (i : Nat) : Steady fun s => s.At n ∧ s.staging.EntryNotDue n k i := by
  refine tableLaw_steady (R := .all) (T := fun g => g.EntryNotDue n k i) (at_unitLaw n).steady
    (fun s hs g g' hg st => ?_) (fun _ _ _ _ => trivial) (fun _ _ _ _ _ => trivial) fun _ _ _ _ => trivial
  exact (hs.now ▸ st : TableStep .all n s.time.timing g g').entryNotDue hg

end

end Sys2Proof.Machine
end

section
/-! SUPPORT. The law of timers (R156): its clauses at a fixed tick are kept by every effect of an event, and the increment that reaches a tick takes every timer that is due at it. -/

namespace Sys2Proof.Machine

/-! ### What every command but a tick and a restart keeps -/

namespace Steady

variable {P : State → Prop} (k : Steady P) {s : State}
include k

theorem answerInTurn (h : P s) (c : s.canAnswer = true) : P s.answerInTurn := by
  have ha := k.answer s h c
  simp only [State.answerInTurn]
  split
  case isTrue hr => exact k.read _ ha hr
  case isFalse => exact ha

theorem settle (h : P s) : P (settle s) :=
  settle_keeps (fun s _ h e => settleOnce_keeps e (k.softReset s h) (k.release s h) (fun _ => k.hazards s h)
    (fun _ => k.withdraw s h) (k.grant s h) (k.answerInTurn h) (k.drain s h) (k.safe s h) (k.reply s h) (k.read s h)
    (k.write s h)) h

theorem event {body : State → State} (h : P s) (hb : ∀ s, P s → P (body s)) : P (event body s) :=
  k.settle (hb _ (k.clearOut _ h))

theorem record (line : Addr) (code : Byte) (args : List Byte) (h : P s) : P (s.presentRecord line code args) :=
  k.presentWrite s _ h

theorem command {c : Instr} {t : State} (hr : c.restarts = false) (ht : ∀ st, c ≠ .tick st) (h : P s)
    (e : exec c s = .next t) : P t := by
  cases c
  case powerOn => cases hr
  case powerLoss => cases hr
  case resetPinAssertion => cases hr
  case resetPinRelease => cases hr
  case tick st => exact absurd rfl (ht st)
  all_goals (rw [← next_inj e]; refine k.event h fun s h => ?_)
  case readRequest => exact k.presentRead _ _ _ _ h
  case writeRequest => exact k.presentWrite _ _ (k.guard _ _ h)
  case readAnswer => split; exacts [k.answer _ h ‹_›, h]
  case hazardRelease => exact k.hazards _ h
  case writeRelease => split; exacts [k.release _ h ‹_›, h]
  case grant => split; exacts [k.grant _ h ‹_›, h]
  case readComplete => exact k.completeRead _ _ h
  case operationComplete => exact k.pollStatus _ _ h
  case suspensionComplete => exact k.pollStatus _ _ h
  case resumeBusy => exact k.pollStatus _ _ h
  case deferredSuspension => exact k.deferred _ h
  case suspendLimitExpiry => exact k.suspendLimit _ _ h
  case timeLimitExpiry => exact k.timeLimit _ h
  case idleTimerExpiry => exact k.idle _ _ h
  case ageTimerExpiry => exact k.age _ _ h
  case holdTimerExpiry => exact k.hold _ h
  case staleTimerExpiry => exact k.stale _ _ h
  case drainTimerExpiry => exact k.drainExpired _ h
  case replyLifetimeExpiry => exact k.overlay _ h
  case wakeEnd => exact k.wakeEnd _ _ h
  case startupWaitLimit => exact k.startupLimit _ h
  case pwrwarnAssertion => exact k.high _ h
  case pwrwarnDeassertion => exact k.low _ h
  case drainCompletion => split; exacts [k.drain _ h ‹_›, h]
  case safeConditionMet => split; exacts [k.safe _ h ‹_›, h]
  case softResetTakesEffect => split; exacts [k.softReset _ h ‹_›, h]
  case fuseProgrammingCompletion => exact k.fuses _ _ h
  case setRule => exact k.record _ _ _ (k.guard _ _ h)
  case setDefault => exact k.record _ _ _ (k.guard _ _ h)
  case setFence => exact k.record _ _ _ (k.guard _ _ h)
  case setLock => exact k.record _ _ _ (k.guard _ _ h)
  case readStatus => exact k.record _ _ _ (k.guard _ _ h)
  case readRule => exact k.record _ _ _ (k.guard _ _ h)
  all_goals exact k.record _ _ _ h

end Steady

end Sys2Proof.Machine
end

section
/-! SUPPORT. The law of timers at an increment (R155, R156): every timer due at the tick is taken, and what starts one starts it for a later tick. -/

namespace Sys2Proof.Machine

/-! ### The clauses of the law -/

/-- The clauses of the law of timers. -/
inductive TimerClause where
  | spacing | seq | deferred | drain | hold | entry (k : EntryTimer) (i : Fin Config.entryCount) | stale (q : QueueName) | reply

/-- A clause of the law at a tick. -/
def TimerClause.Holds (n : Tick) (s : State) : TimerClause → Prop
  | .spacing => s.drive.Spaced
  | .seq => s.drive.seq.st.NotDue n
  | .deferred => s.drive.NotDeferred n
  | .drain => s.drive.NoDrainDue n
  | .hold => s.NoHoldDue n
  | .entry k i => s.staging.EntryNotDue n k i
  | .stale q => s.capture.NotStale n q
  | .reply => s.NoReplyDue n

/-- Every effect of an event keeps each clause. -/
theorem timerClause_steady (n : Tick) (c : TimerClause) : Steady fun s => s.At n ∧ c.Holds n s := by
  cases c with
  | spacing => exact spaced_steady n
  | seq => exact seqNotDue_steady n
  | deferred => exact notDeferred_steady n
  | drain => exact noDrainDue_steady n
  | hold => exact noHoldDue_steady n
  | entry k i => exact entryNotDue_steady n k i
  | stale q => exact (notStale_unitLaw n q).steady
  | reply => exact noReplyDue_steady n

namespace State

variable {s t : State}

theorem TimerLaw.clause (h : s.TimerLaw) (c : TimerClause) : s.At s.now ∧ c.Holds s.now s := by
  refine ⟨⟨rfl, h.settings⟩, ?_⟩
  cases c with
  | spacing => exact h.spacing
  | seq => exact SeqState.notDue_iff.mpr ⟨h.wake, h.startup, h.suspend, h.limit⟩
  | deferred => exact ⟨h.spacing, h.deferred⟩
  | drain => exact h.drain
  | hold => exact h.hold
  | entry k i =>
    cases k with
    | idle => exact h.idle i i.isLt
    | age => exact h.age i i.isLt
  | stale q => exact h.stale q
  | reply => exact h.reply

theorem timerLaw_of_clauses {n : Tick} (h : ∀ c : TimerClause, s.At n ∧ c.Holds n s) : s.TimerLaw := by
  obtain ⟨⟨rfl, hsettings⟩, hspacing⟩ := h .spacing
  obtain ⟨hwake, hstartup, hsuspend, hlimit⟩ := SeqState.notDue_iff.mp (h .seq).2
  have hdeferred : s.drive.NotDeferred s.now := (h .deferred).2
  exact {
    settings := hsettings
    spacing := hspacing
    wake := hwake
    startup := hstartup
    suspend := hsuspend
    deferred := hdeferred.deferred
    limit := hlimit
    hold := (h .hold).2
    idle := fun i hi => (h (.entry .idle ⟨i, hi⟩)).2
    age := fun i hi => (h (.entry .age ⟨i, hi⟩)).2
    stale := fun q => (h (.stale q)).2
    drain := (h .drain).2
    reply := (h .reply).2 }

/-! ### What is due is taken -/

/-- Start-up ends in the sequencer state given, whatever the power warning does. -/
theorem endStartup_seq (s : State) (x : SeqState) : (s.endStartup x).seq.st = x := by
  simp only [endStartup]
  split
  case isTrue =>
    obtain ⟨hq, -, -⟩ := takeAssertion_drive_of (((s.setSeqSt x).setPowerSt .run).setLanes true) (.inl rfl)
    rw [hq]
    rfl
  case isFalse => rfl

theorem wakeEnded_notDue (s : State) (st : Byte) : (s.wakeEnded st).seq.st.NotDue s.now := by
  have waits : tickAfter s.now Config.startupLimit ≠ s.now := tickAfter_ne s.now (by decide) (by decide)
  unfold wakeEnded
  split
  case isTrue =>
    simp only [firstStatus]
    split
    case h_1 => exact (endStartup_seq s.issueStatus .idle).symm ▸ trivial
    case h_2 => exact waits
    case h_3 => exact waits
  case isFalse =>
    rw [wakeReported_eq]
    trivial

/-- The wake end due at the tick is taken (R78). -/
theorem wakeEndDue_notDue_of_waking (st : Byte) {u : Tick} (h : s.seq.st = .waking u) :
    (s.wakeEndDue st).seq.st.NotDue s.now := by
  by_cases hu : u = s.now
  case pos =>
    rw [wakeEndDue_due st (hu ▸ h)]
    exact s.wakeEnded_notDue st
  case neg =>
    rw [wakeEndDue_notDue st (fun e => hu (SeqState.waking.inj (h.symm.trans e))), h]
    exact hu

/-- The end of an operation by its suspend limit leaves no wait and no operation (R70). -/
theorem suspendLimit_notDue_of_due {n : Tick} {op : FlashOp} (st : Byte) (h : s.seq.st = .suspending op s.now) :
    (s.suspendLimit st).seq.st.NotDue n := by
  rw [suspendLimit_due h]
  split
  · simp [completeOperation, endOperation, SeqState.NotDue]
  · simp [timeoutOperation, refuseMisses, SeqState.NotDue]

theorem timeoutOperation_notDue {n : Tick} (op : FlashOp) : (s.timeoutOperation op).seq.st.NotDue n := by
  simp [timeoutOperation, refuseMisses, SeqState.NotDue]

theorem decideSuspension_of_startupWait {u : Tick} {r : Bool} (h : s.seq.st = .startupWait u r) :
    s.decideSuspension = s := by
  rw [decideSuspension, h]

theorem deferredDue_of_startupWait {u : Tick} {r : Bool} (h : s.seq.st = .startupWait u r) :
    s.deferredDue.seq.st = .startupWait u r := by
  unfold deferredDue
  split
  case isTrue =>
    rw [decideSuspension_of_startupWait (s := s.clearDeferred) (u := u) (r := r) h]
    exact h
  case isFalse => exact h

/-- The expiries of the sequencer that a tick takes. -/
def sequencerDue (st : Byte) (s : State) : State := (((s.wakeEndDue st).suspendLimit st).timeLimit.deferredDue).startupLimitDue

/-- At a tick, no wait of the sequencer ends at it and its operation is below its limit. -/
def Calm (n : Tick) (s : State) : Prop := s.At n ∧ s.seq.st.NotDue n

theorem calm_steady (n : Tick) : Steady (Calm n) := seqNotDue_steady n

section
variable {n : Tick} (st : Byte)

theorem limits_calm (h : s.Calm n) : s.timeLimit.deferredDue.startupLimitDue.Calm n :=
  (calm_steady n).startupLimit _ ((calm_steady n).deferred _ ((calm_steady n).timeLimit s h))

theorem sequencerDue_calm (h : (s.wakeEndDue st).Calm n) : (s.sequencerDue st).Calm n :=
  limits_calm ((calm_steady n).suspendLimit _ st h)

theorem sequencerDue_of_calm (h : s.Calm n) : (s.sequencerDue st).Calm n :=
  sequencerDue_calm st ((calm_steady n).wakeEnd s st h)

/-- Where no wake and no suspension is awaited, the limits of the operation and of start-up are left. -/
theorem sequencerDue_of_awake (hw : ∀ u, s.seq.st ≠ .waking u) (hs : ∀ o u, s.seq.st ≠ .suspending o u) :
    s.sequencerDue st = s.timeLimit.deferredDue.startupLimitDue := by
  rw [sequencerDue, wakeEndDue_notDue st (hw _), suspendLimit_notDue fun o => hs o _]

theorem sequencerDue_counting {op : FlashOp} (hs : s.At n) (h : s.seq.st = .busy op ∨ s.seq.st = .resuming op) :
    (s.sequencerDue st).Calm n := by
  rw [sequencerDue_of_awake st (fun u e => by obtain h | h := h <;> cases h.symm.trans e)
    fun o u e => by obtain h | h := h <;> cases h.symm.trans e]
  by_cases hbelow : op.busyTicks < op.timeLimit
  case pos =>
    refine limits_calm ⟨hs, ?_⟩
    obtain h | h := h <;> exact h ▸ hbelow
  case neg =>
    have hcalm : s.timeLimit.Calm n := by
      refine ⟨(at_unitLaw n).steady.timeLimit s hs, ?_⟩
      rw [timeLimit_reached h (Nat.le_of_not_lt hbelow)]
      exact timeoutOperation_notDue op
    exact (calm_steady n).startupLimit _ ((calm_steady n).deferred _ hcalm)

theorem sequencerDue_startupWait {r : Bool} (hs : s.At n) (h : s.seq.st = .startupWait n r) :
    (s.sequencerDue st).Calm n := by
  have hat := (at_unitLaw n).steady.deferred s hs
  have hwait : s.deferredDue.seq.st = .startupWait s.deferredDue.now r := hat.now.symm ▸ deferredDue_of_startupWait h
  have htime : s.timeLimit = s := by simp only [State.timeLimit, h, SeqState.counting?]
  rw [sequencerDue_of_awake st (by rw [h]; nofun) (by rw [h]; nofun), htime]
  refine ⟨(at_unitLaw n).steady.startupLimit _ hat, ?_⟩
  rw [startupLimitDue_due hwait, stallStartup, endStartup_seq]
  trivial

/-- A tick takes the wait of the sequencer that is due, and the operation that has reached its limit. -/
theorem sequencerDue_notDue (hs : s.At n)
    (hlimit : ∀ op, s.seq.st.operation? = some op → s.seq.st.counting? = none → op.busyTicks < op.timeLimit) :
    (s.sequencerDue st).Calm n := by
  have k := (at_unitLaw n).steady
  have settled (h : s.seq.st.NotDue n) : (s.sequencerDue st).Calm n := sequencerDue_of_calm st ⟨hs, h⟩
  cases e : s.seq.st with
  | waking u => exact sequencerDue_calm st ⟨k.wakeEnd s st hs, hs.now ▸ wakeEndDue_notDue_of_waking st e⟩
  | suspending op u =>
    by_cases hu : u = n
    case pos =>
      have hdue : s.seq.st = .suspending op s.now := by rw [e, hu, hs.now]
      have hawake : s.wakeEndDue st = s := wakeEndDue_notDue st (by rw [e]; nofun)
      rw [sequencerDue, hawake]
      exact limits_calm ⟨k.suspendLimit s st hs, suspendLimit_notDue_of_due st hdue⟩
    case neg => exact settled (e ▸ ⟨hu, hlimit op (e ▸ rfl) (e ▸ rfl)⟩)
  | busy op => exact sequencerDue_counting st hs (.inl e)
  | resuming op => exact sequencerDue_counting st hs (.inr e)
  | startupWait u r =>
    by_cases hu : u = n
    case pos => exact sequencerDue_startupWait st hs (hu ▸ e)
    case neg => exact settled (e ▸ hu)
  | suspended op service => exact settled (e ▸ hlimit op (e ▸ rfl) (e ▸ rfl))
  | idle => exact settled (e ▸ trivial)
  | reading => exact settled (e ▸ trivial)
  | stalled => exact settled (e ▸ trivial)
  | asleep => exact settled (e ▸ trivial)

end

theorem deferredDue_notDeferred {n : Tick} (hs : s.At n) (h : s.drive.Spaced) : s.deferredDue.drive.NotDeferred n := by
  by_cases hdue : s.seq.deferred = some s.now
  case pos =>
    have hclear : s.clearDeferred.At n ∧ s.clearDeferred.drive.NotDeferred n := ⟨hs.frame rfl, h, nofun⟩
    rw [deferredDue_due hdue]
    have hpath := (decideSuspension_drives (m := anyDrive) s.clearDeferred).path
    exact DriveStep.keeps (fun _ _ h st => h.step (hclear.1.now ▸ st)) hpath hclear.2
  case neg =>
    rw [deferredDue_notDue hdue]
    exact ⟨h, hs.now ▸ hdue⟩

theorem drainExpired_noDrainDue {n : Tick} (hs : s.At n) : s.drainExpired.drive.NoDrainDue n := by
  by_cases h : s.power.st = .drain ∧ s.power.drainExpiry = some s.now
  case pos =>
    obtain ⟨hst, he⟩ := h
    rw [drainExpired_due hst he]
    exact nofun
  case neg =>
    rw [drainExpired_notDue (not_and_or.mp h)]
    exact fun hst he => h ⟨hst, hs.now ▸ he⟩

theorem staleExpired_notStale {n : Tick} (hs : s.At n) (q : QueueName) : (s.staleExpired q).capture.NotStale n q := by
  by_cases h : (s.capture.queue q).staleExpiry = some s.now
  case pos =>
    rw [staleExpired_due h]
    exact expireStale_notStale hs.now q
  case neg =>
    rw [staleExpired_notDue h]
    exact hs.now ▸ h

end State

/-- An expiry taken stops the timer of its entry. -/
theorem Staging.expire_stops (g : Staging) (i : Nat) :
    ((g.expireIdle i).entry i).idleExpiry = none ∧ ((g.expireAge i).entry i).ageExpiry = none := by
  cases e : g.entry i with
  | filling d f =>
    have hi : i < g.entries.length := lt_of_entry_ne (by rw [e]; nofun)
    simp only [expireIdle, expireAge, e, entry_setEntry_self _ hi]
    exact ⟨rfl, rfl⟩
  | opened d t =>
    have hi : i < g.entries.length := lt_of_entry_ne (by rw [e]; nofun)
    simp only [expireIdle, expireAge, e]
    cases hd : hasDirty d with
    | true =>
      have hclosed (c : CloseCause) : (g.close c i).entry i = .closed d c := by
        rw [close_opened_dirty e c hd]
        exact entry_setEntry_self (.closed d c) hi
      rw [hclosed, hclosed]
      exact ⟨rfl, rfl⟩
    | false =>
      have hclean (c : CloseCause) : (g.close c i).entry i = .clean d := by
        rw [close_opened_clean e c hd, entry_setEntry_self (.clean d) hi]
      rw [hclean, hclean]
      exact ⟨rfl, rfl⟩
  | free | closed | committing | clean | faulted =>
    simp only [expireIdle, expireAge, e]
    exact ⟨rfl, rfl⟩

namespace State

variable {s : State} {n : Tick}

theorem idleExpired_entryNotDue (hs : s.At n) (i : Nat) : (s.idleExpired i).staging.EntryNotDue n .idle i := by
  by_cases h : (s.staging.entry i).idleExpiry = some s.now
  case pos =>
    rw [idleExpired_due h]
    exact fun e => nomatch (s.staging.expire_stops i).1.symm.trans e
  case neg =>
    rw [idleExpired_notDue h]
    exact hs.now ▸ h

theorem ageExpired_entryNotDue (hs : s.At n) (i : Nat) : (s.ageExpired i).staging.EntryNotDue n .age i := by
  by_cases h : (s.staging.entry i).ageExpiry = some s.now
  case pos =>
    rw [ageExpired_due h]
    exact fun e => nomatch (s.staging.expire_stops i).2.symm.trans e
  case neg =>
    rw [ageExpired_notDue h]
    exact hs.now ▸ h

/-- Both expiries of one entry are taken. -/
theorem entryExpired_entryNotDue (hs : s.At n) (k : EntryTimer) (i : Nat) :
    ((s.idleExpired i).ageExpired i).At n ∧ ((s.idleExpired i).ageExpired i).staging.EntryNotDue n k i := by
  have l := (at_unitLaw n).steady
  have hidle := l.idle s i hs
  cases k with
  | idle => exact (entryNotDue_steady n .idle i).age _ i ⟨hidle, idleExpired_entryNotDue hs i⟩
  | age => exact ⟨l.age _ i hidle, ageExpired_entryNotDue hidle i⟩

/-- The expiries of all entries are taken one after the other; what one has stopped stays so. -/
theorem takeEntryExpiries_entryNotDue (hs : s.At n) (k : EntryTimer) (i : Fin Config.entryCount) :
    (takeEntryExpiries s).At n ∧ (takeEntryExpiries s).staging.EntryNotDue n k i := by
  have l := entryNotDue_steady n k i
  have a := (at_unitLaw n).steady
  obtain ⟨before, after, hsplit⟩ := List.append_of_mem (List.mem_range.mpr i.isLt)
  have hbefore := foldl_preserves (P := State.At n) (fun x j h => a.age _ j (a.idle x j h)) before s hs
  simp only [takeEntryExpiries, hsplit, List.foldl_append, List.foldl_cons]
  exact foldl_preserves (P := fun x => x.At n ∧ x.staging.EntryNotDue n k i) (fun x j h => l.age _ j (l.idle x j h)) after _
    (entryExpired_entryNotDue hbefore k i)

end State

end Sys2Proof.Machine
end

section
/-! SUPPORT. Every step keeps the law of timers (R156): the increment with the expiries it takes, the restarts, and all other commands. -/

namespace Sys2Proof.Machine

/-! ### The expiries of a tick, in their order (log entry 3) -/

namespace Steady

variable {P : State → Prop} (k : Steady P) {s : State}
include k

theorem fromDrain (h : P s) : P s.drainExpired.overlayExpired := k.overlay _ (k.drainExpired _ h)

theorem fromStale (h : P s) : P ((s.staleExpired .a).staleExpired .b).drainExpired.overlayExpired :=
  k.fromDrain (k.stale _ .b (k.stale _ .a h))

theorem fromEntries (h : P s) :
    P (((takeEntryExpiries s).staleExpired .a).staleExpired .b).drainExpired.overlayExpired :=
  k.fromStale (foldl_preserves (fun x i hx => k.age _ i (k.idle x i hx)) _ _ h)

theorem sequencerDue (st : Byte) (h : P s) : P (s.sequencerDue st) :=
  k.startupLimit _ (k.deferred _ (k.timeLimit _ (k.suspendLimit _ st (k.wakeEnd _ st h))))

end Steady

namespace State

variable {s : State} {n : Tick}

theorem takeDue_eq (s : State) (st : Byte) : takeDue st s =
    (((takeEntryExpiries (s.sequencerDue st).holdExpired).staleExpired .a).staleExpired .b).drainExpired.overlayExpired := rfl

/-- After the expiries of a tick no timer is due at it; the operations that do not count are below their limits already. -/
theorem takeDue_clause (st : Byte) (hs : s.At n) (hspaced : s.drive.Spaced)
    (hlimit : ∀ op, s.seq.st.operation? = some op → s.seq.st.counting? = none → op.busyTicks < op.timeLimit)
    (c : TimerClause) : (takeDue st s).At n ∧ c.Holds n (takeDue st s) := by
  have a := (at_unitLaw n).steady
  have hseq := a.sequencerDue st hs
  have hhold := a.hold _ hseq
  have hentries := foldl_preserves (P := State.At n) (fun x i hx => a.age _ i (a.idle x i hx)) (List.range Config.entryCount)
    _ hhold
  rw [takeDue_eq]
  have l := timerClause_steady n c
  cases c with
  | spacing => exact l.fromEntries (l.hold _ (l.sequencerDue st ⟨hs, hspaced⟩))
  | seq => exact l.fromEntries (l.hold _ (sequencerDue_notDue st hs hlimit))
  | deferred =>
    have p := spaced_steady n
    have hbefore := p.timeLimit _ (p.suspendLimit _ st (p.wakeEnd s st ⟨hs, hspaced⟩))
    have hdeferred := deferredDue_notDeferred hbefore.1 hbefore.2
    exact l.fromEntries (l.hold _ (l.startupLimit _ ⟨a.deferred _ hbefore.1, hdeferred⟩))
  | hold => exact l.fromEntries ⟨hhold, hseq.now ▸ holdExpired_noHoldDue _⟩
  | entry k i => exact l.fromStale (takeEntryExpiries_entryNotDue hhold k i)
  | stale q =>
    have ha := a.stale _ .a hentries
    cases q with
    | a => exact l.fromDrain (l.stale _ .b ⟨ha, staleExpired_notStale hentries .a⟩)
    | b => exact l.fromDrain ⟨a.stale _ .b ha, staleExpired_notStale ha .b⟩
  | drain =>
    have hstale := a.stale _ .b (a.stale _ .a hentries)
    exact l.overlay _ ⟨a.drainExpired _ hstale, drainExpired_noDrainDue hstale⟩
  | reply =>
    have hdrain := a.drainExpired _ (a.stale _ .b (a.stale _ .a hentries))
    exact ⟨a.overlay _ hdrain, hdrain.now ▸ overlayExpired_noReplyDue _⟩

/-- The status read of a tick leaves an operation only where it is no read at all (R60). -/
theorem tickPoll_operation (s : State) (st : Byte) {op : FlashOp} (h : (s.tickPoll st).seq.st.operation? = some op) :
    (s.tickPoll st).seq.st = s.seq.st := by
  have ended (x : State) (h : (x.endStartup .idle).seq.st.operation? = some op) : False := by
    rw [endStartup_seq] at h
    cases h
  unfold tickPoll at h ⊢
  split
  case h_1 e =>
    simp only [e, stallPoll] at h ⊢
    split
    case h_1 hr => simp only [hr] at h; cases h
    case h_2 => simpa using e
    case h_3 => simpa using e
  case h_2 e =>
    simp only [e, startupPoll] at h ⊢
    split
    case h_1 hr => simp only [hr] at h; exact (ended _ h).elim
    case h_2 => simpa using e
    case h_3 hr =>
      split
      case isTrue => simpa using e
      case isFalse hn => simp only [hr, hn] at h; cases h
  case h_3 => rfl

/-- An operation that does not count at an increment is as it was. -/
theorem grow_operation {x : SeqState} {op : FlashOp} (h : x.grow.operation? = some op) (hc : x.grow.counting? = none) :
    x.operation? = some op := by
  cases x with
  | busy => cases hc
  | resuming => cases hc
  | _ => exact h

/-- A tick keeps the law: what counted to a limit times out, and what fell due is taken. -/
theorem tickBody_timerLaw (h : s.TimerLaw) (st : Byte) : (tickBody st s).TimerLaw := by
  have hat : s.increment.At (s.now + 1) := ⟨rfl, h.settings⟩
  have hspaced : s.increment.drive.Spaced := h.spacing
  obtain ⟨hpat, hpspaced⟩ := (spaced_steady _).tickPoll s.increment st ⟨hat, hspaced⟩
  refine timerLaw_of_clauses (takeDue_clause st hpat hpspaced fun op hop hcount => ?_)
  have hsame := s.increment.tickPoll_operation st hop
  rw [hsame] at hop hcount
  exact h.limit op (grow_operation hop hcount)

theorem settle_timerLaw (h : s.TimerLaw) : (settle s).TimerLaw :=
  timerLaw_of_clauses fun c => (timerClause_steady s.now c).settle (h.clause c)

theorem clearOut_timerLaw (h : s.TimerLaw) : s.clearOut.TimerLaw :=
  timerLaw_of_clauses fun c => (timerClause_steady s.now c).clearOut s (h.clause c)

theorem microsecond_timerLaw (h : s.TimerLaw) : s.microsecond.TimerLaw := by
  unfold microsecond
  split
  case isTrue =>
    split
    case isTrue => exact timerLaw_of_clauses fun c => (timerClause_steady s.now c).subTick s _ (h.clause c)
    case isFalse =>
      have ht := tickBody_timerLaw h (Config.linkStatus s.draws)
      exact timerLaw_of_clauses fun c => (timerClause_steady _ c).draw _ (ht.clause c)
  case isFalse => exact h

/-- The blocks that run a timer are at their power-on values, but for the state of the sequencer (R182). -/
structure Blank (s : State) : Prop where
  timing : s.time.timing = TimingSettings.default
  policy : s.seq.policy = Sequencer.initial.policy
  deferred : s.seq.deferred = none
  power : s.power.st ≠ .drain
  write : s.port.write = none
  staging : s.staging = Staging.initial
  capture : s.capture = CaptureUnit.initial
  overlay : s.control.overlay = none

namespace Blank

theorem at_now (h : s.Blank) : s.At s.now := by
  refine ⟨rfl, ?_⟩
  rw [h.timing]
  decide

theorem clause (h : s.Blank) (c : TimerClause) (hc : c ≠ .seq) : c.Holds s.now s := by
  have hspaced : s.drive.Spaced := by
    show s.seq.policy.resumeSpacing ≤ 255
    rw [h.policy]
    decide
  cases c with
  | seq => exact absurd rfl hc
  | spacing => exact hspaced
  | deferred => exact ⟨hspaced, fun e => nomatch h.deferred.symm.trans e⟩
  | drain => exact fun e => absurd e h.power
  | hold => exact fun w c e => nomatch h.write.symm.trans e
  | entry k i =>
    show (s.staging.entry i).expiry k ≠ _
    rw [h.staging, Staging.initial_entry]
    cases k <;> exact nofun
  | stale q =>
    show s.capture.NotStale _ q
    rw [h.capture]
    exact .initial
  | reply => exact fun o e => nomatch h.overlay.symm.trans e

theorem timerLaw (h : s.Blank) (hst : s.seq.st.NotDue s.now) : s.TimerLaw := by
  refine timerLaw_of_clauses fun c => ⟨h.at_now, ?_⟩
  by_cases hc : c = .seq
  case pos => exact hc ▸ hst
  case neg => exact h.clause c hc

/-- Start-up wakes the flash, at once where the wake delay is 0 (R182, R183). -/
theorem wakeEndDue_timerLaw (h : s.Blank) (st : Byte) {u : Tick} (hst : s.seq.st = .waking u) : (s.wakeEndDue st).TimerLaw := by
  refine timerLaw_of_clauses (n := s.now) fun c => ?_
  by_cases hc : c = .seq
  case pos =>
    subst hc
    exact ⟨(at_unitLaw _).steady.wakeEnd s st h.at_now, wakeEndDue_notDue_of_waking st hst⟩
  case neg => exact (timerClause_steady s.now c).wakeEnd s st ⟨h.at_now, h.clause c hc⟩

end Blank

theorem timerLaw_restarts : Restarts State.TimerLaw where
  tear s h := by
    unfold tearFuses
    split
    case h_1 => exact { h with }
    case h_2 => exact h
  powered _ _ h := { h with }
  resetHeld _ _ h := { h with }
  powerOn s _ := Blank.timerLaw ⟨rfl, rfl, rfl, nofun, rfl, rfl, rfl, rfl⟩ trivial
  startUp s st _ := by
    simp only [startUp]
    split
    case h_1 => exact Blank.timerLaw ⟨rfl, rfl, rfl, nofun, rfl, rfl, rfl, rfl⟩ trivial
    case h_2 => exact Blank.wakeEndDue_timerLaw ⟨rfl, rfl, rfl, (show PowerState.starting ≠ .drain from nofun), rfl, rfl, rfl, rfl⟩ st rfl

/-- A tick of a part that counts or not (R155). -/
theorem oneTick_timerLaw (h : s.TimerLaw) (st : Byte) : (s.oneTick st).TimerLaw := by
  unfold oneTick
  split
  case isTrue => exact tickBody_timerLaw h st
  case isFalse => exact h

end State

/-- Settles O9: clause by clause at a fixed tick, but for the increment and the restarts, which establish the law anew. -/
theorem stepsKeepTheTimerLaw : Obligations.StepsKeepTheTimerLaw := by
  intro s t h e
  unfold step at e
  split at e
  case h_1 => exact next_inj e ▸ State.settle_timerLaw (State.microsecond_timerLaw (State.clearOut_timerLaw h))
  case h_2 c rest _ =>
    have hq : (s.withPending rest).TimerLaw :=
      State.timerLaw_of_clauses fun k => (timerClause_steady s.now k).pending s rest (h.clause k)
    by_cases hr : c.restarts = true
    case pos => exact State.timerLaw_restarts.command (fun _ => State.clearOut_timerLaw) (fun _ => State.settle_timerLaw) hr hq e
    case neg =>
      by_cases ht : ∃ st, c = .tick st
      case pos =>
        obtain ⟨st, rfl⟩ := ht
        rw [← next_inj e]
        exact State.settle_timerLaw (State.oneTick_timerLaw (State.clearOut_timerLaw hq) st)
      case neg =>
        refine State.timerLaw_of_clauses (n := s.now) fun k => ?_
        exact (timerClause_steady _ k).command (Bool.eq_false_iff.mpr hr) (not_exists.mp ht) (hq.clause k) e

end Sys2Proof.Machine
end

section
/-! SUPPORT. A tick at which no timer is due (R155, R156): the increment, with the status read of STALLED and STARTUP_WAIT (R60, R76, R183 to R185). -/

namespace Sys2Proof.Machine

/-- No wait of the sequencer ends at the tick, and no operation that counts has used up its time. -/
structure SeqState.Undue (n : Tick) (q : SeqState) : Prop where
  wake : q ≠ .waking n
  startup : ∀ r, q ≠ .startupWait n r
  suspend : ∀ o, q ≠ .suspending o n
  limit : ∀ op, q.counting? = some op → op.busyTicks < op.timeLimit

theorem SeqState.idle_undue (n : Tick) : SeqState.Undue n .idle := ⟨nofun, nofun, nofun, nofun⟩

theorem SeqState.stalled_undue (n : Tick) : SeqState.Undue n .stalled := ⟨nofun, nofun, nofun, nofun⟩

theorem SeqState.startupWait_undue {n t : Tick} (r : Bool) (h : t ≠ n) : SeqState.Undue n (.startupWait t r) := by
  refine ⟨nofun, fun r e => ?_, nofun, nofun⟩
  cases e
  exact h rfl

namespace State

variable {s x y : State}

/-- No timer outside the sequencer's state is due at the tick. -/
structure Unexpired (x : State) : Prop where
  deferred : x.seq.deferred ≠ some x.now
  hold : x.NoHoldDue x.now
  entries : ∀ k i, x.staging.EntryNotDue x.now k i
  stale : ∀ q, x.capture.NotStale x.now q
  drain : x.drive.NoDrainDue x.now
  reply : x.NoReplyDue x.now

theorem holdExpired_of_noHoldDue (h : x.NoHoldDue x.now) : x.holdExpired = x := by
  refine holdExpired_notDue fun w hw => ?_
  by_cases hheld : ∃ c, w.stage = .held c
  case pos =>
    obtain ⟨c, hc⟩ := hheld
    exact .inl (h w c hw hc)
  case neg => exact .inr (not_exists.mp hheld)

theorem timeLimit_of_below (h : ∀ op, x.seq.st.counting? = some op → op.busyTicks < op.timeLimit) : x.timeLimit = x := by
  unfold timeLimit
  split
  case h_1 op hop => exact if_neg (Nat.not_le.mpr (h op hop))
  case h_2 => rfl

/-- Where nothing is due, a tick takes nothing. -/
theorem Unexpired.takeDue (h : x.Unexpired) (hseq : x.seq.st.Undue x.now) (st : Byte) : takeDue st x = x := by
  have hsequencer : x.sequencerDue st = x := by
    rw [sequencerDue, wakeEndDue_notDue st hseq.wake, suspendLimit_notDue hseq.suspend, timeLimit_of_below hseq.limit,
      deferredDue_notDue h.deferred, startupLimitDue_notDue hseq.startup]
  have hentries : takeEntryExpiries x = x := by
    unfold takeEntryExpiries
    induction List.range Config.entryCount with
    | nil => rfl
    | cons i l ih => rw [List.foldl_cons, idleExpired_notDue (h.entries .idle i), ageExpired_notDue (h.entries .age i), ih]
  have hdrain : x.drainExpired = x := drainExpired_notDue (not_and_or.mp fun ⟨hst, he⟩ => h.drain hst he)
  rw [takeDue_eq, hsequencer, holdExpired_of_noHoldDue h.hold, hentries, staleExpired_notDue (h.stale .a),
    staleExpired_notDue (h.stale .b), hdrain, overlayExpired_notDue h.reply]

/-! ### The increment -/

theorem NoneDue.unexpired (h : s.NoneDue) : s.clearOut.increment.Unexpired where
  deferred := h.deferred
  hold := h.hold
  entries k i := by
    cases k with
    | idle => exact h.idle i
    | age => exact h.age i
  stale := h.stale
  drain := h.drain
  reply := h.reply

/-- One more busy tick of an operation. -/
theorem grow_of_below {op : FlashOp} (h : op.busyTicks + 1 < op.timeLimit) :
    op.grow = { op with busyTicks := op.busyTicks + 1 } := by
  rw [FlashOp.grow, if_pos (Nat.lt_of_succ_lt h)]

/-- The tick of an operation that counts, and polls nothing. -/
theorem NoneDue.tickBody_counting (h : s.NoneDue) (st : Byte) {op : FlashOp}
    (hop : s.seq.st = .busy op ∨ s.seq.st = .resuming op) :
    tickBody st s.clearOut = s.clearOut.increment := by
  have hpoll : s.clearOut.increment.tickPoll st = s.clearOut.increment := by
    have hst : s.clearOut.increment.seq.st = s.seq.st.grow := rfl
    unfold tickPoll
    obtain hop | hop := hop <;> rw [hst, hop] <;> rfl
  rw [tickBody, hpoll, takeDue_of_noneDue h]

/-- The tick of a part whose sequencer counts nothing, with the status read it makes. -/
theorem NoneDue.tickBody_polled (h : s.NoneDue) (st : Byte) {q : SeqState} (hq : s.seq.st = q) (hgrow : q.grow = q)
    (hy : (s.clearOut.withTime { tick := s.time.tick + 1, subTick := 0, timing := s.time.timing }).tickPoll st = y)
    (hunexpired : (s.clearOut.withTime { tick := s.time.tick + 1, subTick := 0, timing := s.time.timing }).Unexpired → y.Unexpired)
    (hseq : y.seq.st.Undue y.now) : tickBody st s.clearOut = y := by
  subst hq
  have hincrement := increment_of_grow hgrow
  rw [tickBody, hincrement, hy]
  exact (hunexpired (hincrement ▸ h.unexpired)).takeDue hseq st

/-! ### What the status read of a tick leaves quiet -/

/-- A change of the sequencer's state and of the link alone. -/
theorem Unexpired.congr (h : x.Unexpired) (hnow : y.now = x.now) (hdeferred : y.seq.deferred = x.seq.deferred)
    (hwrite : y.port.write = x.port.write) (hstaging : y.staging = x.staging) (hcapture : y.capture = x.capture)
    (hdrain : y.power = x.power ∨ y.power.st ≠ .drain) (hcontrol : y.control = x.control) : y.Unexpired where
  deferred := by
    rw [hdeferred, hnow]
    exact h.deferred
  hold := by
    unfold NoHoldDue
    rw [hwrite, hnow]
    exact h.hold
  entries := by
    rw [hstaging, hnow]
    exact h.entries
  stale := by
    rw [hcapture, hnow]
    exact h.stale
  drain := by
    obtain hp | hp := hdrain
    · show y.power.st = .drain → y.power.drainExpiry ≠ some y.now
      rw [hp, hnow]
      exact h.drain
    · exact fun e => absurd e hp
  reply := by
    unfold NoReplyDue
    rw [hcontrol, hnow]
    exact h.reply

theorem refuseWrite_notStale {n : Tick} {q : QueueName} (hnow : x.now = n) (h : x.capture.NotStale n q)
    (w : WriteInProgress) (reason : RefusalReason) : (x.refuseWrite w reason).capture.NotStale n q := by
  have hrelease (u : State) (hu : u.capture.NotStale n q) : (u.releaseFor w.decision).capture.NotStale n q := by
    unfold releaseFor
    split
    case h_1 => exact hu.setQueue _ id
    case h_2 => exact hu
  have hput (u : State) (hun : u.now = n) (hu : u.capture.NotStale n q) (o : CaptureOutcome) :
      (u.captureWrite w false o []).capture.NotStale n q := by
    unfold captureWrite
    split
    case h_1 => exact hu
    case h_2 =>
      split
      case h_1 => exact hu
      case h_2 p _ => exact putRecord_notStale hun hu p _ _
  have hreleased := hrelease ((x.setWrite none).giveAnswer (writeAnswer w.req (.err reason))) h
  refine hput _ ?_ hreleased _
  exact (congrArg Timebase.tick (by simp)).trans hnow

theorem refuseHeld_notStale {n : Tick} {q : QueueName} (hnow : x.now = n) (h : x.capture.NotStale n q) :
    x.refuseHeld.capture.NotStale n q := by
  unfold refuseHeld
  split
  case h_1 w _ =>
    split
    case h_1 => exact refuseWrite_notStale hnow h w _
    case h_2 => exact h
  case h_2 => exact h

/-- The refusal of a held write, after a change of the staging table and of the power state. -/
theorem closed_notStale {n : Tick} {q : QueueName} (hnow : x.now = n) (h : x.capture.NotStale n q) (g : Staging)
    (p : PowerState) :
    ((x.setPowerSt p).withStaging g).refuseHeld.capture.NotStale n q := refuseHeld_notStale hnow h

/-- The entry to EMERGENCY stops timers, or starts a stale timer for a later tick (R149, R130). -/
theorem Unexpired.enterEmergency (h : x.Unexpired) : x.enterEmergency.Unexpired := by
  have htime : x.enterEmergency.time = x.time := by simp
  have hnow : x.enterEmergency.now = x.now := congrArg Timebase.tick htime
  exact {
    deferred := by
      rw [hnow]
      simpa using h.deferred
    hold := by
      rw [hnow]
      exact .step ((refuseHeld_laneStep _).after rfl) h.hold
    entries := fun k i => by
      have hstaging : x.enterEmergency.staging = x.staging.closeAll .emergency := by simp [State.enterEmergency, refuseHeld_frame]
      rw [hnow, hstaging]
      have hpath := x.staging.closeAll_moves (R := .all) (now := x.now) (t := x.time.timing) .emergency
      exact TableStep.keeps (T := fun g => g.EntryNotDue x.now k i) (fun _ _ => TableStep.entryNotDue) hpath (h.entries k i)
    stale := fun q => by
      rw [hnow]
      exact closed_notStale rfl (h.stale q) (x.staging.closeAll .emergency) .emergency
    drain := by
      have hpower : x.enterEmergency.power.st = .emergency := by simp [State.enterEmergency, refuseHeld_frame]
      exact fun e => nomatch hpower.symm.trans e
    reply := by
      have hcontrol : x.enterEmergency.control = x.control := by simp
      rw [hnow]
      exact h.reply.step (.of_control hcontrol) }

end State

end Sys2Proof.Machine
end

section
/-! SUPPORT. The tick (R155, R156): what it does to the part, and each expiry it takes as a command of its own. -/

namespace Sys2Proof.Machine

section
variable {s : State}

/-- The part of a tick that its increment makes, beside the busy ticks. -/
def State.ticked (s : State) : State :=
  s.clearOut.withTime { tick := s.time.tick + 1, subTick := 0, timing := s.time.timing }

/-- A tick of a running part reaches what its body comes to. -/
theorem reaches_tick {st : Byte} {y : State} (hrun : s.running = true) (h : tickBody st s.clearOut = y) :
    Reaches (.tick st) s y := by
  refine reaches_of_event (body := fun s => s.oneTick st) rfl ?_
  exact (if_pos hrun).trans h

/-- STALLED reads STATUS once (R76). -/
theorem tickPoll_stalled {st : Byte} (h : s.seq.st = .stalled) {x : Shown} (hx : s.shown st = x) : s.tickPoll st =
    match (generalizing := false) x with
    | .ready => s.issueStatus.setSeqSt .idle
    | .busy => s.issueStatus
    | .suspended => s.issueStatus.issueBare .resume := by
  subst hx
  rw [State.tickPoll, h]
  rfl

/-- STARTUP_WAIT reads STATUS once (R183, R184). -/
theorem tickPoll_startupWait {st : Byte} {t : Tick} {r : Bool} (h : s.seq.st = .startupWait t r) {x : Shown}
    (hx : s.shown st = x) : s.tickPoll st =
    match (generalizing := false) x with
    | .ready => s.issueStatus.endStartup .idle
    | .busy => s.issueStatus
    | .suspended => if r then s.issueStatus else s.issueStatus.resumeStartup := by
  subst hx
  rw [State.tickPoll, h]
  rfl

namespace State

theorem NoneDue.reaches_counting (h : s.NoneDue) {st : Byte} {q : SeqState} {op : FlashOp}
    (hop : s.seq.st = .busy op ∨ s.seq.st = .resuming op) (hq : s.seq.st.grow = q) :
    Reaches (.tick st) s (s.ticked.setSeqSt q) := by
  subst hq
  exact reaches_tick h.running (h.tickBody_counting st hop)

/-- A tick at which nothing is due, in a state of the sequencer that counts nothing. -/
theorem NoneDue.reaches_polled (h : s.NoneDue) {st : Byte} {q : SeqState} {y : State} (hq : s.seq.st = q) (hgrow : q.grow = q)
    (hy : s.ticked.tickPoll st = y) (hunexpired : s.ticked.Unexpired → y.Unexpired) (hseq : y.seq.st.Undue y.now) :
    Reaches (.tick st) s y :=
  reaches_tick h.running (h.tickBody_polled st hq hgrow hy hunexpired hseq)

/-- The tick of a STALLED sequencer (R76). -/
theorem NoneDue.reaches_stalled (h : s.NoneDue) (st : Byte) (hst : s.seq.st = .stalled) :
    let y := s.ticked.issueStatus
    (s.shown st = .ready → Reaches (.tick st) s (y.setSeqSt .idle)) ∧
    (s.shown st = .busy → Reaches (.tick st) s y) ∧
    (s.shown st = .suspended → Reaches (.tick st) s (y.issueBare .resume)) := by
  intro y
  have stays : y.seq.st.Undue y.now := (show y.seq.st = .stalled from hst) ▸ SeqState.stalled_undue _
  refine ⟨fun hx => h.reaches_polled hst rfl (tickPoll_stalled (s := s.ticked) hst hx) ?_ (SeqState.idle_undue _),
    fun hx => h.reaches_polled hst rfl (tickPoll_stalled (s := s.ticked) hst hx) ?_ stays,
    fun hx => h.reaches_polled hst rfl (tickPoll_stalled (s := s.ticked) hst hx) ?_ stays⟩
  all_goals exact fun hu => hu.congr rfl rfl rfl rfl rfl (.inl rfl) rfl

/-- The tick of STARTUP_WAIT (R183 to R185). -/
theorem NoneDue.reaches_startupWait (h : s.NoneDue) (st : Byte) {t : Tick} {r : Bool} (hst : s.seq.st = .startupWait t r) :
    let y := s.ticked.issueStatus
    (s.shown st = .ready → s.power.pwrwarn = false → Reaches (.tick st) s (y.started .idle)) ∧
    (s.shown st = .ready → s.power.pwrwarn = true →
      Reaches (.tick st) s ((y.started .idle).raise .powerWarning).enterEmergency) ∧
    (s.shown st = .busy → Reaches (.tick st) s y) ∧
    (s.shown st = .suspended → r = true → Reaches (.tick st) s y) ∧
    (s.shown st = .suspended → r = false → Reaches (.tick st) s y.resumeStartup) := by
  intro y
  have poll {x : Shown} (hx : s.shown st = x) := tickPoll_startupWait (s := s.ticked) hst hx
  have waits : y.seq.st.Undue y.now := by
    rw [show y.seq.st = .startupWait t r from hst]
    exact SeqState.startupWait_undue r fun e => h.startup r (hst.trans (congrArg (SeqState.startupWait · r) e))
  have read (hu : s.ticked.Unexpired) : y.Unexpired := hu.congr rfl rfl rfl rfl rfl (.inl rfl) rfl
  have started (hu : s.ticked.Unexpired) : (y.started .idle).Unexpired := hu.congr rfl rfl rfl rfl rfl (.inr nofun) rfl
  refine ⟨fun hx hw => ?calm, fun hx hw => ?warned, fun hx => ?busy, fun hx hr => ?resumed, fun hx hr => ?resumes⟩
  case calm =>
    exact h.reaches_polled hst rfl ((poll hx).trans (endStartup_calm (s := y) .idle hw)) started (SeqState.idle_undue _)
  case warned =>
    refine h.reaches_polled hst rfl ((poll hx).trans (endStartup_warned (s := y) .idle hw)) ?_ ?_
    · exact fun hu => Unexpired.enterEmergency ((started hu).congr rfl rfl rfl rfl rfl (.inl rfl) rfl)
    · have hseq : ((y.started .idle).raise .powerWarning).enterEmergency.seq = (y.started .idle).seq := by simp
      rw [hseq]
      exact SeqState.idle_undue _
  case busy => exact h.reaches_polled hst rfl (poll hx) read waits
  case resumed => exact h.reaches_polled hst rfl ((poll hx).trans (if_pos hr)) read waits
  case resumes =>
    refine h.reaches_polled hst rfl ((poll hx).trans (if_neg (Bool.eq_false_iff.mp hr))) ?_ ?_
    · exact fun hu => hu.congr rfl rfl rfl rfl rfl (.inl rfl) rfl
    · exact SeqState.startupWait_undue true (tickAfter_ne y.now (by decide) (by decide))

end State

end

/-- Settles O56, by whether the part runs; at a tick at which nothing is due, by the state of the sequencer. -/
theorem ticksCount : Obligations.TicksCount := by
  intro s st
  refine ⟨fun hrun hrest => ?off, fun hrun => ?running, ?expiries, fun hnone => ?undue⟩
  case off =>
    have hbody : s.clearOut.oneTick st = s.clearOut := if_neg (Bool.eq_false_iff.mp hrun)
    have hevent : event (fun u => u.oneTick st) s = s.clearOut.oneTick st :=
      event_of_atRest (hbody.symm ▸ clearOut_atRest hrest)
    exact congrArg Host.Outcome.next (hevent.trans hbody)
  case running =>
    have hbody : s.clearOut.oneTick st = tickBody st s.clearOut := if_pos hrun
    exact congrArg (fun x => Host.Outcome.next (settle x)) hbody
  case expiries => exact ⟨rfl, rfl, rfl, rfl, rfl, rfl, fun i => ⟨rfl, rfl⟩, fun q => rfl, rfl, rfl⟩
  case undue =>
    refine ⟨fun op hop => hnone.reaches_counting (.inl hop) ?busy, fun op hop => hnone.reaches_counting (.inr hop) ?resuming,
      hnone.reaches_stalled st, fun t r hwait => hnone.reaches_startupWait st hwait,
      fun hbusy hresuming hstalled hstartup => ?rest⟩
    case busy =>
      rw [hop]
      exact congrArg SeqState.busy (State.grow_of_below (hnone.limit op (by rw [hop]; rfl)))
    case resuming =>
      rw [hop]
      exact congrArg SeqState.resuming (State.grow_of_below (hnone.limit op (by rw [hop]; rfl)))
    case rest => exact reaches_tick hnone.running (tickBody_of_noneDue hnone st hbusy hresuming hstalled hstartup)

end Sys2Proof.Machine
end
